-- ==== Sys2Proof/Word.lean ====
section
/-! DEFINITION. The word types of the CHIP-8 CORE (00_scope.md R4, R6, R7): every value is an unsigned number of a stated width. -/

namespace Sys2Proof

/-- A byte: a general register, a timer, a cell of main memory (R4, R14, R24, R34). -/
abbrev Byte := BitVec 8

/-- A 16-bit value: `pc`, `I`, a stack entry, an instruction word, `fault_info` (R16, R18, R19, R26, R51). -/
abbrev Word := BitVec 16

/-- The number of a general register, the 4-bit fields `x` and `y` of an instruction (R6, R14). -/
abbrev RegNum := BitVec 4

/-- The flag register's number: `VF` is `V[0xF]` (R4, R15). -/
abbrev flagReg : RegNum := 0xF#4

end Sys2Proof
end

