-- ==== Sys2Proof/Syntax.lean ====
section
/-! DEFINITION. The instructions: one constructor per row of spec/opcode_table.json (30_encoding.md R57), in the table's order.
Ignored fields are kept, so that no bit of a word is dropped (R63). -/

namespace Sys2Proof

/-- The 35 instruction forms (R57). `x`, `y` are register numbers, `kk` an 8-bit immediate, `nnn` a 12-bit address,
`n` a 4-bit count (R6, R53). -/
inductive Instr where
  /-- `00E0` CLS (R99) -/
  | cls
  /-- `00EE` RET (R65) -/
  | ret
  /-- `0nnn` SYS nnn, the legacy no-op (R66); `nnn` is ignored -/
  | sys (nnn : BitVec 12)
  /-- `1nnn` JP nnn (R67) -/
  | jp (nnn : BitVec 12)
  /-- `2nnn` CALL nnn (R68) -/
  | call (nnn : BitVec 12)
  /-- `3xkk` SE Vx, kk (R71) -/
  | seImm (x : RegNum) (kk : Byte)
  /-- `4xkk` SNE Vx, kk (R72) -/
  | sneImm (x : RegNum) (kk : Byte)
  /-- `5xy0` SE Vx, Vy (R73) -/
  | seReg (x y : RegNum)
  /-- `6xkk` LD Vx, kk (R76) -/
  | ldImm (x : RegNum) (kk : Byte)
  /-- `7xkk` ADD Vx, kk (R77) -/
  | addImm (x : RegNum) (kk : Byte)
  /-- `8xy0` LD Vx, Vy (R78) -/
  | ldReg (x y : RegNum)
  /-- `8xy1` OR Vx, Vy (R79) -/
  | orReg (x y : RegNum)
  /-- `8xy2` AND Vx, Vy (R80) -/
  | andReg (x y : RegNum)
  /-- `8xy3` XOR Vx, Vy (R81) -/
  | xorReg (x y : RegNum)
  /-- `8xy4` ADD Vx, Vy (R82) -/
  | addReg (x y : RegNum)
  /-- `8xy5` SUB Vx, Vy (R83) -/
  | sub (x y : RegNum)
  /-- `8xy6` SHR Vx (R84); `y` is encoded and ignored -/
  | shr (x y : RegNum)
  /-- `8xy7` SUBN Vx, Vy (R85) -/
  | subn (x y : RegNum)
  /-- `8xyE` SHL Vx (R86); `y` is encoded and ignored -/
  | shl (x y : RegNum)
  /-- `9xy0` SNE Vx, Vy (R74) -/
  | sneReg (x y : RegNum)
  /-- `Annn` LD I, nnn (R91) -/
  | ldI (nnn : BitVec 12)
  /-- `Bnnn` JP V0, nnn (R69) -/
  | jpV0 (nnn : BitVec 12)
  /-- `Cxkk` RND Vx, kk (R88) -/
  | rnd (x : RegNum) (kk : Byte)
  /-- `Dxyn` DRW Vx, Vy, n (R100) -/
  | drw (x y : RegNum) (n : BitVec 4)
  /-- `Ex9E` SKP Vx (R104) -/
  | skp (x : RegNum)
  /-- `ExA1` SKNP Vx (R105) -/
  | sknp (x : RegNum)
  /-- `Fx07` LD Vx, DT (R107) -/
  | ldVxDt (x : RegNum)
  /-- `Fx0A` LD Vx, K (R106) -/
  | ldVxK (x : RegNum)
  /-- `Fx15` LD DT, Vx (R108) -/
  | ldDtVx (x : RegNum)
  /-- `Fx18` LD ST, Vx (R109) -/
  | ldStVx (x : RegNum)
  /-- `Fx1E` ADD I, Vx (R92) -/
  | addI (x : RegNum)
  /-- `Fx29` LD F, Vx (R93) -/
  | ldF (x : RegNum)
  /-- `Fx33` LD B, Vx (R94) -/
  | ldB (x : RegNum)
  /-- `Fx55` LD [I], Vx (R95) -/
  | storeRegs (x : RegNum)
  /-- `Fx65` LD Vx, [I] (R96) -/
  | loadRegs (x : RegNum)
  deriving DecidableEq, Repr

end Sys2Proof
end

