-- ==== Sys2Proof/Decode.lean ====
section
/-! DEFINITION. Decoding (30_encoding.md R51 to R56) and, after it, encoding (R52, R62), both written from the format figure of R52
and the opcode map of R57; and the rows of that map as patterns. Selectors are matched in full (R55, R56; decision D14, log 17). -/

namespace Sys2Proof

/-- Why a list of bytes is no instruction: fewer than the two bytes every instruction has (R51), or a word of R58. -/
inductive DecodeError where
  | truncated
  | illegalOpcode (op : Word)
  deriving DecidableEq, Repr

/-- The fields of an instruction word (R6). -/
def fieldGrp (op : Word) : BitVec 4 := op.extractLsb' 12 4
def fieldX (op : Word) : RegNum := op.extractLsb' 8 4
def fieldY (op : Word) : RegNum := op.extractLsb' 4 4
def fieldN (op : Word) : BitVec 4 := op.extractLsb' 0 4
def fieldKk (op : Word) : Byte := op.extractLsb' 0 8
def fieldNnn (op : Word) : BitVec 12 := op.extractLsb' 0 12

/-- Group 0: the two fixed words, all others the legacy no-op (R54, R55). -/
def decodeGroup0 (op : Word) : Instr :=
  if op = 0x00E0#16 then .cls else if op = 0x00EE#16 then .ret else .sys (fieldNnn op)

/-- Group 8: the selector is `op[3:0]` (R54, R56). -/
def decodeGroup8 (x y : RegNum) (s : BitVec 4) : Option Instr :=
  if s = 0x0#4 then some (.ldReg x y)
  else if s = 0x1#4 then some (.orReg x y)
  else if s = 0x2#4 then some (.andReg x y)
  else if s = 0x3#4 then some (.xorReg x y)
  else if s = 0x4#4 then some (.addReg x y)
  else if s = 0x5#4 then some (.sub x y)
  else if s = 0x6#4 then some (.shr x y)
  else if s = 0x7#4 then some (.subn x y)
  else if s = 0xE#4 then some (.shl x y)
  else none

/-- Group E: the selector is `op[7:0]` (R54, R56). -/
def decodeGroupE (x : RegNum) (ss : Byte) : Option Instr :=
  if ss = 0x9E#8 then some (.skp x)
  else if ss = 0xA1#8 then some (.sknp x)
  else none

/-- Group F: the selector is `op[7:0]` (R54, R56). -/
def decodeGroupF (x : RegNum) (ss : Byte) : Option Instr :=
  if ss = 0x07#8 then some (.ldVxDt x)
  else if ss = 0x0A#8 then some (.ldVxK x)
  else if ss = 0x15#8 then some (.ldDtVx x)
  else if ss = 0x18#8 then some (.ldStVx x)
  else if ss = 0x1E#8 then some (.addI x)
  else if ss = 0x29#8 then some (.ldF x)
  else if ss = 0x33#8 then some (.ldB x)
  else if ss = 0x55#8 then some (.storeRegs x)
  else if ss = 0x65#8 then some (.loadRegs x)
  else none

/-- `Decode(op)`: total on the 65536 words, `none` on the illegal ones (R54, R58). -/
def decodeWord (op : Word) : Option Instr :=
  let x := fieldX op
  let y := fieldY op
  let n := fieldN op
  let kk := fieldKk op
  let nnn := fieldNnn op
  match (fieldGrp op).toNat with
  | 0x0 => some (decodeGroup0 op)
  | 0x1 => some (.jp nnn)
  | 0x2 => some (.call nnn)
  | 0x3 => some (.seImm x kk)
  | 0x4 => some (.sneImm x kk)
  | 0x5 => if n = 0x0#4 then some (.seReg x y) else none
  | 0x6 => some (.ldImm x kk)
  | 0x7 => some (.addImm x kk)
  | 0x8 => decodeGroup8 x y n
  | 0x9 => if n = 0x0#4 then some (.sneReg x y) else none
  | 0xA => some (.ldI nnn)
  | 0xB => some (.jpV0 nnn)
  | 0xC => some (.rnd x kk)
  | 0xD => some (.drw x y n)
  | 0xE => decodeGroupE x kk
  | 0xF => decodeGroupF x kk
  | _ => none

/-- The instruction word of two bytes: the byte at the lower address is the high byte (R35, R51). -/
def wordOfBytes (hi lo : Byte) : Word := hi ++ lo

/-- The two bytes of a word in the order they stand in memory (R35). -/
def bytesOfWord (op : Word) : List Byte := [op.extractLsb' 8 8, op.extractLsb' 0 8]

/-- Decoding of a list of bytes: the instruction and the bytes after it, or the reason there is none (R51, R54, R112). -/
def decode : List Byte → Except DecodeError (Instr × List Byte)
  | hi :: lo :: rest =>
    match decodeWord (wordOfBytes hi lo) with
    | some i => .ok (i, rest)
    | none => .error (.illegalOpcode (wordOfBytes hi lo))
  | [_] => .error .truncated
  | [] => .error .truncated

/-- The word of an instruction (R52, R62): the fields side by side, most significant first. -/
def encodeWord : Instr → Word
  | .cls => 0x00E0#16
  | .ret => 0x00EE#16
  | .sys nnn => 0x0#4 ++ nnn
  | .jp nnn => 0x1#4 ++ nnn
  | .call nnn => 0x2#4 ++ nnn
  | .seImm x kk => 0x3#4 ++ x ++ kk
  | .sneImm x kk => 0x4#4 ++ x ++ kk
  | .seReg x y => 0x5#4 ++ x ++ y ++ 0x0#4
  | .ldImm x kk => 0x6#4 ++ x ++ kk
  | .addImm x kk => 0x7#4 ++ x ++ kk
  | .ldReg x y => 0x8#4 ++ x ++ y ++ 0x0#4
  | .orReg x y => 0x8#4 ++ x ++ y ++ 0x1#4
  | .andReg x y => 0x8#4 ++ x ++ y ++ 0x2#4
  | .xorReg x y => 0x8#4 ++ x ++ y ++ 0x3#4
  | .addReg x y => 0x8#4 ++ x ++ y ++ 0x4#4
  | .sub x y => 0x8#4 ++ x ++ y ++ 0x5#4
  | .shr x y => 0x8#4 ++ x ++ y ++ 0x6#4
  | .subn x y => 0x8#4 ++ x ++ y ++ 0x7#4
  | .shl x y => 0x8#4 ++ x ++ y ++ 0xE#4
  | .sneReg x y => 0x9#4 ++ x ++ y ++ 0x0#4
  | .ldI nnn => 0xA#4 ++ nnn
  | .jpV0 nnn => 0xB#4 ++ nnn
  | .rnd x kk => 0xC#4 ++ x ++ kk
  | .drw x y n => 0xD#4 ++ x ++ y ++ n
  | .skp x => 0xE#4 ++ x ++ 0x9E#8
  | .sknp x => 0xE#4 ++ x ++ 0xA1#8
  | .ldVxDt x => 0xF#4 ++ x ++ 0x07#8
  | .ldVxK x => 0xF#4 ++ x ++ 0x0A#8
  | .ldDtVx x => 0xF#4 ++ x ++ 0x15#8
  | .ldStVx x => 0xF#4 ++ x ++ 0x18#8
  | .addI x => 0xF#4 ++ x ++ 0x1E#8
  | .ldF x => 0xF#4 ++ x ++ 0x29#8
  | .ldB x => 0xF#4 ++ x ++ 0x33#8
  | .storeRegs x => 0xF#4 ++ x ++ 0x55#8
  | .loadRegs x => 0xF#4 ++ x ++ 0x65#8

/-- The bytes of an instruction, in memory order (R35, R51, R62). -/
def encode (i : Instr) : List Byte := bytesOfWord (encodeWord i)

/-- A row of the opcode map: a word `w` lies in it when `w &&& mask = value` (R57). -/
structure Row where
  value : Word
  mask : Word
  deriving DecidableEq, Repr

/-- The word lies in the row (R57). -/
def Row.covers (r : Row) (w : Word) : Bool := w &&& r.mask == r.value

/-- The row of the opcode map that an instruction belongs to: its `match` and `mask` columns (R57). -/
def Instr.row : Instr → Row
  | .cls => ⟨0x00E0, 0xFFFF⟩
  | .ret => ⟨0x00EE, 0xFFFF⟩
  | .sys _ => ⟨0x0000, 0xF000⟩
  | .jp _ => ⟨0x1000, 0xF000⟩
  | .call _ => ⟨0x2000, 0xF000⟩
  | .seImm _ _ => ⟨0x3000, 0xF000⟩
  | .sneImm _ _ => ⟨0x4000, 0xF000⟩
  | .seReg _ _ => ⟨0x5000, 0xF00F⟩
  | .ldImm _ _ => ⟨0x6000, 0xF000⟩
  | .addImm _ _ => ⟨0x7000, 0xF000⟩
  | .ldReg _ _ => ⟨0x8000, 0xF00F⟩
  | .orReg _ _ => ⟨0x8001, 0xF00F⟩
  | .andReg _ _ => ⟨0x8002, 0xF00F⟩
  | .xorReg _ _ => ⟨0x8003, 0xF00F⟩
  | .addReg _ _ => ⟨0x8004, 0xF00F⟩
  | .sub _ _ => ⟨0x8005, 0xF00F⟩
  | .shr _ _ => ⟨0x8006, 0xF00F⟩
  | .subn _ _ => ⟨0x8007, 0xF00F⟩
  | .shl _ _ => ⟨0x800E, 0xF00F⟩
  | .sneReg _ _ => ⟨0x9000, 0xF00F⟩
  | .ldI _ => ⟨0xA000, 0xF000⟩
  | .jpV0 _ => ⟨0xB000, 0xF000⟩
  | .rnd _ _ => ⟨0xC000, 0xF000⟩
  | .drw _ _ _ => ⟨0xD000, 0xF000⟩
  | .skp _ => ⟨0xE09E, 0xF0FF⟩
  | .sknp _ => ⟨0xE0A1, 0xF0FF⟩
  | .ldVxDt _ => ⟨0xF007, 0xF0FF⟩
  | .ldVxK _ => ⟨0xF00A, 0xF0FF⟩
  | .ldDtVx _ => ⟨0xF015, 0xF0FF⟩
  | .ldStVx _ => ⟨0xF018, 0xF0FF⟩
  | .addI _ => ⟨0xF01E, 0xF0FF⟩
  | .ldF _ => ⟨0xF029, 0xF0FF⟩
  | .ldB _ => ⟨0xF033, 0xF0FF⟩
  | .storeRegs _ => ⟨0xF055, 0xF0FF⟩
  | .loadRegs _ => ⟨0xF065, 0xF0FF⟩

/-- The words of R58: those `Decode` gives no form for. -/
def illegalWord (op : Word) : Bool := (decodeWord op).isNone

/-- The bytes of an opcode-table word whose bit 0 is the least significant bit of the (only) instruction word;
bits above `nbits` are 0. -/
def tableBytes (nbits w : Nat) : List Byte := bytesOfWord (BitVec.ofNat 16 (w % 2 ^ nbits))

/-- What the decoder reads from the bytes of an opcode-table word. -/
def decodeTableWord (nbits w : Nat) : Option Instr :=
  match decode (tableBytes nbits w) with
  | .ok (i, _) => some i
  | .error _ => none

end Sys2Proof
end

