-- ==== Sys2Proof/Config.lean ====
section
/-! DEFINITION. What is fixed for one machine (00_scope.md R4), what the spec leaves as a parameter (R5), and the free values.
The opaque constants have no body: a statement about them holds for every value they may have. -/

namespace Sys2Proof.Config

/-- Bytes of main memory, `MEM_SIZE` (R4). -/
abbrev memSize : Nat := 4096

/-- The reset `pc` and the address programs are loaded at, `PROG_BASE` (R4, R135, R136). -/
abbrev progBase : Nat := 0x200

/-- The largest program, `ROM_MAX` (R4, R136). -/
abbrev romMax : Nat := 3584

/-- Entries of the return stack, `STACK_DEPTH` (R4, R19). -/
abbrev stackDepth : Nat := 16

/-- Display columns (R4, R98). -/
abbrev displayColumns : Nat := 64

/-- Display cells, 64 columns by 32 rows (R4, R98). -/
abbrev displayCells : Nat := 2048

/-- Bytes of the font: 16 glyphs of 5 bytes (R4, R41). -/
abbrev fontBytes : Nat := 80

/-- `FONT_BASE`, the address of glyph 0: an open parameter, `0 ≤ FONT_BASE ≤ 0x1B0` (R5, R41, decision D1; log 4). -/
opaque fontBase : Fin 0x1B1

/-- `FONT_DATA[0..79]`, the glyph bytes: an open parameter (R5, R41, decision D2; log 5). -/
opaque fontData : Fin 80 → Byte

/-- The byte that the `n`-th free draw gives to `Cxkk`: a value under no law (R89, decision D16; log 2). -/
opaque randomByte : Nat → Byte

/-- Which of several pressed keys the `n`-th free draw makes `Fx0A` take: under no law (R106, decision D4; log 3). -/
opaque keyChoice : Nat → Nat

/-- The suggested default for `FONT_DATA`, "from general knowledge, not in source" (R43, G1; UNVERIFIED, log 5).
The machine does not use it: a claim about glyph pixels may assume `fontData` equal to it. -/
def conventionalFont : List Byte :=
  [0xF0, 0x90, 0x90, 0x90, 0xF0, 0x20, 0x60, 0x20, 0x20, 0x70, 0xF0, 0x10, 0xF0, 0x80, 0xF0, 0xF0, 0x10, 0xF0, 0x10, 0xF0] ++
  [0x90, 0x90, 0xF0, 0x10, 0x10, 0xF0, 0x80, 0xF0, 0x10, 0xF0, 0xF0, 0x80, 0xF0, 0x90, 0xF0, 0xF0, 0x10, 0x20, 0x40, 0x40] ++
  [0xF0, 0x90, 0xF0, 0x90, 0xF0, 0xF0, 0x90, 0xF0, 0x10, 0xF0, 0xF0, 0x90, 0xF0, 0x90, 0x90, 0xE0, 0x90, 0xE0, 0x90, 0xE0] ++
  [0xF0, 0x80, 0x80, 0x80, 0xF0, 0xE0, 0x90, 0x90, 0x90, 0xE0, 0xF0, 0x80, 0xF0, 0x80, 0xF0, 0xF0, 0x80, 0xF0, 0x80, 0x80]

end Sys2Proof.Config
end

