-- ==== Sys2Proof/Machine/State.lean ====
section
/-! DEFINITION. The machine's state, the moves that step it, the reasons it stops, and the state after reset
(10_state.md, 60_exceptions.md R111, R131, 70_reset_and_hazards.md R134). -/

namespace Sys2Proof.Machine

/-- The seven synchronous faults of the core (R111). Taking one is a next state (R114), not a stop of the model. -/
inductive Trap where
  | illegalOpcode
  | fetchBounds
  | stackOverflow
  | stackUnderflow
  | memBounds
  | displayBounds
  | keyRange
  deriving DecidableEq, Repr

/-- The steps that change the state: the Execute step, the Tick step, and the host's moves (R10, R131). -/
inductive Move where
  /-- fetch, decode and execute one instruction (R12) -/
  | execute
  /-- the Timer Updater's step (R124) -/
  | tick
  /-- the host changes the level of logical key `k` (R127) -/
  | setKey (k : BitVec 4) (down : Bool)
  /-- the host clears `render` (R128) -/
  | ackRender
  /-- the host writes the program at 0x200 upward (R129, R136) -/
  | loadProgram (bytes : List Byte)
  /-- the host applies reset (R134) -/
  | reset
  deriving DecidableEq, Repr

/-- Main memory as the (address, byte) pairs that differ from the reset contents, addresses rising (R21, R34; log 10). -/
abbrev Memory := List Host.Cell

/-- How the model itself stops a run. -/
inductive Fault where
  /-- Raised by the Execute and Tick moves while `halted` is 1: "the Execute step and the Tick step are both disabled" (R114).
  Safe: the hardware takes no such step (log 6). -/
  | coreHalted
  deriving DecidableEq, Repr

/-- Why a step has no meaning. -/
inductive Refusal where
  /-- The instruction is not modelled. No arm of `exec` answers it. Safe. -/
  | notModelled (mnemonic : String)
  /-- Raised by the `loadProgram` move after the first Execute step: "nothing after the first Execute step" (R129).
  Safe: the host may not do it (log 11). -/
  | loadAfterStart
  /-- Raised by the `loadProgram` move with more than 3584 bytes: "never loaded (the host refuses it)" (R42, R136).
  Safe: no core state results (log 11). -/
  | romTooLarge
  deriving DecidableEq, Repr

/-- Every piece of state the spec gives the machine (R14 to R28), and the model's own fields `agenda`, `draws`, `started`. -/
structure State where
  /-- `V[0]`..`V[15]` (R14); `VF` is `V[15]` (R15) -/
  v : Vector Byte 16
  /-- the program counter (R16) -/
  pc : Word
  /-- the index register `I` (R18) -/
  i : Word
  /-- the return stack (R19) -/
  stack : Vector Word 16
  /-- the stack pointer, "values 0..16 only" (R20) -/
  sp : Fin 17
  /-- main memory (R21) -/
  mem : Memory
  /-- display memory: bit `c + 64*r` is the one-bit cell at column `c`, row `r` (R22, R98) -/
  disp : BitVec 2048
  /-- the render-pending flag (R23) -/
  render : Bool
  /-- the delay timer `DT` (R24) -/
  dt : Byte
  /-- the sound timer `ST` (R24) -/
  st : Byte
  /-- the latch of the instruction just fetched (R25) -/
  op : Word
  /-- the fault latch (R26) -/
  halted : Bool
  /-- `fault_cause` (R26, R111) -/
  faultCause : BitVec 3
  /-- `fault_info` (R26, R111) -/
  faultInfo : Word
  /-- the output `sound_active` (R27) -/
  soundActive : Bool
  /-- the host's sixteen key levels, bit `k` for logical key `k` (R28, R127) -/
  keys : BitVec 16
  /-- the model's own: the moves that come next, first one first; when there is none the next move is Execute (R13; log 1) -/
  agenda : List Move
  /-- the model's own: how many free draws have been taken (R89, R106; log 2) -/
  draws : Nat
  /-- the model's own: an Execute step was invoked since reset (R129; log 11) -/
  started : Bool
  deriving DecidableEq, Repr

/-- The state after reset (R31, R134, R135). Memory lists nothing: every byte reads as its reset content (log 10).
The values of `op`, `keys`, `agenda`, `draws` and `started` are the model's choice (logs 7, 9, 1, 2, 11). -/
def State.reset : State where
  v := Vector.replicate 16 0
  pc := 0x200
  i := 0
  stack := Vector.replicate 16 0
  sp := 0
  mem := []
  disp := 0
  render := false
  dt := 0
  st := 0
  op := 0
  halted := false
  faultCause := 0
  faultInfo := 0
  soundActive := false
  keys := 0
  agenda := []
  draws := 0
  started := false

end Sys2Proof.Machine
end

