-- ==== Sys2Proof/Machine/Ops.lean ====
section
/-! DEFINITION. The named operations over memory and state that every instruction and every move is written in:
main memory (20_memory.md), the registers, fault entry (60_exceptions.md R114), the Tick step (R124), and placing an instruction. -/

namespace Sys2Proof.Machine

/-! Main memory (R21, R34, R40). -/

/-- What a byte of main memory holds after reset, and so what an address the memory does not list reads as: the font at
`FONT_BASE`, 0 elsewhere (R31, R40, R41, R134). The font ends below 0x200 because `FONT_BASE ≤ 0x1B0` (decision D1; log 4). -/
def Memory.resetByte (a : Nat) : Byte :=
  if Config.progBase ≤ a then 0
  else if h : Config.fontBase.val ≤ a ∧ a - Config.fontBase.val < Config.fontBytes then
    Config.fontData ⟨a - Config.fontBase.val, h.2⟩
  else 0

/-- The listed byte of an address. -/
def Memory.lookup : Memory → Nat → Option Byte
  | [], _ => none
  | (k, b) :: rest, a => if k = a then some b else Memory.lookup rest a

/-- The byte at an address: `MemRead(a, 1)` (R8). -/
def Memory.read (m : Memory) (a : Nat) : Byte := (m.lookup a).getD (Memory.resetByte a)

/-- The memory without an entry for the address. -/
def Memory.erase : Memory → Nat → Memory
  | [], _ => []
  | (k, b) :: rest, a => if k = a then Memory.erase rest a else (k, b) :: Memory.erase rest a

/-- The memory with an entry added before the first higher address. -/
def Memory.insert : Memory → Nat → Byte → Memory
  | [], a, b => [(a, b)]
  | (k, c) :: rest, a, b => if a < k then (a, b) :: (k, c) :: rest else (k, c) :: Memory.insert rest a b

/-- `MemWrite(a, 1, b)` (R8). Writing the reset content removes the entry, so that equal memories are equal lists (log 10). -/
def Memory.write (m : Memory) (a : Nat) (b : Byte) : Memory :=
  if b = Memory.resetByte a then m.erase a else (m.erase a).insert a b

/-- The canonical form: addresses strictly rising and inside the 4096 bytes, no entry equal to the reset content (log 10). -/
abbrev Memory.wf (m : Memory) : Prop :=
  m.Pairwise (fun c d => c.1 < d.1) ∧ ∀ c ∈ m, c.1 < Config.memSize ∧ c.2 ≠ Memory.resetByte c.1

/-! One writer per field of the state. -/

/-- Writes the general registers, nothing else. -/
def State.setV (s : State) (a : Vector Byte 16) : State := { s with v := a }
/-- Writes `pc`, nothing else. -/
def State.setPc (s : State) (a : Word) : State := { s with pc := a }
/-- Writes `I`, nothing else. -/
def State.setI (s : State) (a : Word) : State := { s with i := a }
/-- Writes the return stack, nothing else. -/
def State.setStack (s : State) (a : Vector Word 16) : State := { s with stack := a }
/-- Writes `sp`, nothing else. -/
def State.setSp (s : State) (a : Fin 17) : State := { s with sp := a }
/-- Writes main memory, nothing else. -/
def State.setMem (s : State) (a : Memory) : State := { s with mem := a }
/-- Writes the display, nothing else. -/
def State.setDisp (s : State) (a : BitVec 2048) : State := { s with disp := a }
/-- Writes `render`, nothing else. -/
def State.setRender (s : State) (a : Bool) : State := { s with render := a }
/-- Writes `DT`, nothing else. -/
def State.setDt (s : State) (a : Byte) : State := { s with dt := a }
/-- Writes `ST`, nothing else. -/
def State.setSt (s : State) (a : Byte) : State := { s with st := a }
/-- Writes the instruction latch, nothing else. -/
def State.setOp (s : State) (a : Word) : State := { s with op := a }
/-- Writes `sound_active`, nothing else. -/
def State.setSoundActive (s : State) (a : Bool) : State := { s with soundActive := a }
/-- Writes the key levels, nothing else. -/
def State.setKeys (s : State) (a : BitVec 16) : State := { s with keys := a }
/-- Writes the schedule, nothing else. -/
def State.setAgenda (s : State) (a : List Move) : State := { s with agenda := a }
/-- Writes the draw counter, nothing else. -/
def State.setDraws (s : State) (a : Nat) : State := { s with draws := a }
/-- Writes the mark of the first Execute step, nothing else. -/
def State.setStarted (s : State) (a : Bool) : State := { s with started := a }

/-! The general registers (R14). -/

/-- `V[r]` (R8, R14). -/
def State.getReg (s : State) (r : RegNum) : Byte := s.v[r.toNat]'r.isLt

/-- `V[r] <- b` (R8, R14). -/
def State.setReg (s : State) (r : RegNum) (b : Byte) : State := s.setV (s.v.set r.toNat b r.isLt)

/-- `VF`, the flag register, "the same register as `V[0xF]`" (R8, R15). -/
def State.vf (s : State) : Byte := s.getReg flagReg

/-! The program counter (R17). -/

/-- `pc <- pc + 2`, 16 bits wide (R17). -/
def State.advance (s : State) : State := s.setPc (s.pc + 2)

/-- The skip of R70: `pc + 4` past one word when the condition holds, else `pc + 2`. -/
def State.skipIf (s : State) (c : Bool) : State := s.setPc (s.pc + if c then 4 else 2)

/-! Main memory through the state. -/

/-- The byte at an address (R8, R34). -/
def State.readByte (s : State) (a : Nat) : Byte := s.mem.read a

/-- Writes one byte of main memory (R8, R37). -/
def State.writeByte (s : State) (a : Nat) (b : Byte) : State := s.setMem (s.mem.write a b)

/-- Writes bytes at ascending addresses (R35). -/
def State.writeBytes : State → Nat → List Byte → State
  | s, _, [] => s
  | s, a, b :: bs => State.writeBytes (s.writeByte a b) (a + 1) bs

/-- Reads bytes at ascending addresses (R35). -/
def State.readBytes (s : State) (a : Nat) : Nat → List Byte
  | 0 => []
  | n + 1 => s.readByte a :: State.readBytes s (a + 1) n

/-- Stores `V[0]` .. `V[n-1]` at `base` upward, in ascending order (R95). -/
def State.storeFirst (s : State) (base : Nat) : Nat → State
  | 0 => s
  | n + 1 => (State.storeFirst s base n).writeByte (base + n) (s.getReg (BitVec.ofNat 4 n))

/-- Loads `V[0]` .. `V[n-1]` from `base` upward, in ascending order (R96). -/
def State.loadFirst (s : State) (base : Nat) : Nat → State
  | 0 => s
  | n + 1 => (State.loadFirst s base n).setReg (BitVec.ofNat 4 n) (s.readByte (base + n))

/-! The return stack (R19, R20). -/

/-- The entry of the return stack at an index below 16; the callers have checked it (R50). -/
def State.stackEntry (s : State) (k : Nat) : Word := (s.stack[k]?).getD 0

/-- `stack[sp] <- pc; sp <- sp + 1`, for `sp < 16` (R68). -/
def State.push (s : State) (a : Word) (h : s.sp.val < 16) : State :=
  (s.setStack (s.stack.set s.sp.val a h)).setSp ⟨s.sp.val + 1, Nat.succ_lt_succ h⟩

/-- `sp <- sp − 1`; the entry is left as it is (R65). -/
def State.dropTop (s : State) : State :=
  s.setSp ⟨s.sp.val - 1, Nat.lt_of_le_of_lt (Nat.sub_le _ _) s.sp.isLt⟩

/-! Fault entry (R114). There is no return from a fault (R118): only `hostReset` clears the latch. -/

/-- The cause code of a fault (R111, decision D19). -/
def Trap.code : Trap → BitVec 3
  | .illegalOpcode => 1
  | .fetchBounds => 2
  | .stackOverflow => 3
  | .stackUnderflow => 4
  | .memBounds => 5
  | .displayBounds => 6
  | .keyRange => 7

/-- `raise F(info)`: the latch is written and nothing else (R114). "There is no trap vector, no handler, no saved-state registers
and no mode change": `pc` keeps the address of the faulting instruction (decision D18; log 6). -/
def State.raise (s : State) (t : Trap) (info : Word) : State :=
  { s with halted := true, faultCause := t.code, faultInfo := info }

/-! The display (R22, R98). -/

/-- `disp[k]`, on or off. -/
def State.cell (s : State) (k : Nat) : Bool := s.disp.getLsbD k

/-- `disp[k] <- disp[k] ^ 1` (R100). -/
def flipCell (d : BitVec 2048) (k : Nat) : BitVec 2048 := d ^^^ BitVec.twoPow 2048 k

/-- The cells flipped one after another, and whether one of them was on when its turn came (R100). -/
def flipCells : BitVec 2048 → List Nat → Bool → BitVec 2048 × Bool
  | d, [], hit => (d, hit)
  | d, k :: ks, hit => flipCells (flipCell d k) ks (hit || d.getLsbD k)

/-! The host's keys and the free draws. -/

/-- `KeyDown(k)`: the level of key `k` now (R103, R127). -/
def State.keyDown (s : State) (k : Nat) : Bool := s.keys.getLsbD k

/-- One more free draw has been taken (log 2). -/
def State.nextDraw (s : State) : State := s.setDraws (s.draws + 1)

/-! The Tick step (R124). -/

/-- A timer one tick later: one less, and 0 stays 0 (R124, R125). -/
def countDown (t : Byte) : Byte := if t ≠ 0 then t - 1 else t

/-- Both timers count down, each on its own, and `sound_active` says whether `ST` is then nonzero (R124, R126). -/
def State.tick (s : State) : State :=
  ((s.setDt (countDown s.dt)).setSt (countDown s.st)).setSoundActive (decide (countDown s.st ≠ 0))

/-! Placing an instruction where the next step fetches it. -/

/-- The state with the bytes of an instruction at `pc` and Execute as the next move. A `pc` nothing can be fetched from
becomes 0x200, and a halted core is released, since the fetch needs both (R12, R36). -/
def State.placeInstruction (s : State) (bytes : List Byte) : State :=
  let t := if s.pc.toNat ≤ 4094 then s else s.setPc 0x200
  { (t.writeBytes t.pc.toNat bytes).setAgenda (.execute :: s.agenda) with halted := false }

end Sys2Proof.Machine
end

