-- ==== Sys2Proof/Machine/Flags.lean ====
section
/-! DEFINITION. Every flag the spec computes (10_state.md R15, 42_alu.md R75, R82 to R86, 44_display.md R101): each is written to `VF`
as exactly 0 or 1. -/

namespace Sys2Proof.Machine

/-- A truth value as a register value: "1 for true and 0 for false" (R7). -/
def flagByte (b : Bool) : Byte := if b then 1 else 0

/-- The carry of an addition: 1 exactly when the true sum exceeds 255 (R75, R82). -/
def carryFlag (a b : Byte) : Byte := flagByte (decide (a.toNat + b.toNat > 255))

/-- The flag of a subtraction: 1 exactly when the minuend is strictly greater, so 0 on equal operands (R75, R83, R85, C7). -/
def greaterFlag (minuend subtrahend : Byte) : Byte := flagByte (decide (minuend.toNat > subtrahend.toNat))

/-- The bit a right shift shifts out: old bit 0 (R84). -/
def lowBitFlag (a : Byte) : Byte := flagByte (a.getLsbD 0)

/-- The bit a left shift shifts out: old bit 7 (R86). -/
def highBitFlag (a : Byte) : Byte := flagByte (a.getLsbD 7)

/-- `VF <- f` (R15). -/
def State.setFlag (s : State) (f : Byte) : State := s.setReg flagReg f

end Sys2Proof.Machine
end

