-- ==== Sys2Proof/Machine/Alu.lean ====
section
/-! DEFINITION. Register load, arithmetic, logic, shifts, random (42_alu.md): `6xkk`, `7xkk`, `8xy0` to `8xy7`, `8xyE`, `Cxkk`.
The flag is written before the result and the result reads the registers as they are then, in the order the spec writes them
(R87, decision D13; log 14); only `8xy4` reads both operands first (R82). -/

namespace Sys2Proof.Machine

/-- LD Vx, kk (R76). -/
def execLdImm (x : RegNum) (kk : Byte) (s : State) : Host.Outcome State Fault Refusal := .next (s.setReg x kk).advance

/-- ADD Vx, kk: no carry (R77). -/
def execAddImm (x : RegNum) (kk : Byte) (s : State) : Host.Outcome State Fault Refusal :=
  .next (s.setReg x (s.getReg x + kk)).advance

/-- LD Vx, Vy (R78). -/
def execLdReg (x y : RegNum) (s : State) : Host.Outcome State Fault Refusal := .next (s.setReg x (s.getReg y)).advance

/-- OR Vx, Vy (R79). -/
def execOrReg (x y : RegNum) (s : State) : Host.Outcome State Fault Refusal :=
  .next (s.setReg x (s.getReg x ||| s.getReg y)).advance

/-- AND Vx, Vy (R80). -/
def execAndReg (x y : RegNum) (s : State) : Host.Outcome State Fault Refusal :=
  .next (s.setReg x (s.getReg x &&& s.getReg y)).advance

/-- XOR Vx, Vy (R81). -/
def execXorReg (x y : RegNum) (s : State) : Host.Outcome State Fault Refusal :=
  .next (s.setReg x (s.getReg x ^^^ s.getReg y)).advance

/-- ADD Vx, Vy: the sum is formed before any write (R82). -/
def execAddReg (x y : RegNum) (s : State) : Host.Outcome State Fault Refusal :=
  .next ((s.setFlag (carryFlag (s.getReg x) (s.getReg y))).setReg x (s.getReg x + s.getReg y)).advance

/-- SUB Vx, Vy: "reads `V[x]`, `V[y]` after the flag write" (R83). -/
def execSub (x y : RegNum) (s : State) : Host.Outcome State Fault Refusal :=
  let t := s.setFlag (greaterFlag (s.getReg x) (s.getReg y))
  .next (t.setReg x (t.getReg x - t.getReg y)).advance

/-- SHR Vx: `V[x]` is read again after the flag write, `y` is ignored (R84). -/
def execShr (x _y : RegNum) (s : State) : Host.Outcome State Fault Refusal :=
  let t := s.setFlag (lowBitFlag (s.getReg x))
  .next (t.setReg x (t.getReg x >>> 1)).advance

/-- SUBN Vx, Vy: "reads `V[x]`, `V[y]` after the flag write" (R85). -/
def execSubn (x y : RegNum) (s : State) : Host.Outcome State Fault Refusal :=
  let t := s.setFlag (greaterFlag (s.getReg y) (s.getReg x))
  .next (t.setReg x (t.getReg y - t.getReg x)).advance

/-- SHL Vx: `V[x]` is read again after the flag write, `y` is ignored (R86). -/
def execShl (x _y : RegNum) (s : State) : Host.Outcome State Fault Refusal :=
  let t := s.setFlag (highBitFlag (s.getReg x))
  .next (t.setReg x (t.getReg x <<< 1)).advance

/-- RND Vx, kk: a fresh free byte, masked (R88, R89, decision D16; log 2). -/
def execRnd (x : RegNum) (kk : Byte) (s : State) : Host.Outcome State Fault Refusal :=
  .next (s.nextDraw.setReg x (Config.randomByte s.draws &&& kk)).advance

end Sys2Proof.Machine
end

