-- ==== Sys2Proof/Machine/Operands.lean ====
section
/-! DEFINITION. The operand forms (30_encoding.md R53): immediates and absolute addresses, `I`-relative accesses with their bounds check
(20_memory.md R39), the cells of a sprite (44_display.md R100), and the pressed keys (45_keys_timers.md R106). -/

namespace Sys2Proof.Machine

/-- An absolute address operand: `zext_16(nnn)` (R53). -/
def absolute (nnn : BitVec 12) : Word := nnn.zeroExtend 16

/-- Absolute plus `V[0]`, 16 bits wide, not reduced to 12 (R69, R53). -/
def State.indexedTarget (s : State) (nnn : BitVec 12) : Word := absolute nnn + (s.getReg 0).zeroExtend 16

/-- The address `I + k` of the `k`-th byte, exact: it wraps neither at 12 nor at 16 bits (R39, R90). -/
def State.dataAddr (s : State) (k : Nat) : Nat := s.i.toNat + k

/-- The bounds check of an access to `count` bytes at `I` upward: the `fault_info` of `MemBounds`, the lowest address above 4095, when
there is one. An access of no byte checks nothing (R39, decision D7; log 12). -/
def State.memBounds (s : State) (count : Nat) : Option Word :=
  if 0 < count ∧ 4095 < s.i.toNat + (count - 1) then some (BitVec.ofNat 16 (max s.i.toNat 4096)) else none

/-- The number of registers `V[0..x]` (R95, R96). -/
def regCount (x : RegNum) : Nat := x.toNat + 1

/-- `FONT_BASE + 5 * d`: the glyph of a byte, not masked to a nibble (R93, decision D30; log 20). -/
def glyphAddr (d : Byte) : Word := BitVec.ofNat 16 (Config.fontBase.val + 5 * d.toNat)

/-- The decimal digits of a byte: hundreds, tens, ones (R94). -/
def hundreds (b : Byte) : Byte := BitVec.ofNat 8 (b.toNat / 100)
def tens (b : Byte) : Byte := BitVec.ofNat 8 (b.toNat / 10 % 10)
def ones (b : Byte) : Byte := BitVec.ofNat 8 (b.toNat % 10)

/-- The flat index of a display cell: `col + 64*row`, no coordinate wraparound (R98, R100, decision D8; log 16). -/
def cellIndex (col row : Nat) : Nat := col + Config.displayColumns * row

/-- The cells under the set bits of one sprite row, bits ascending; bit 0 of the loop is the most significant bit of the byte
(R100, R102, decision D3; log 13). -/
def rowCells (col row : Nat) (b : Byte) : List Nat :=
  [0, 1, 2, 3, 4, 5, 6, 7].filterMap fun bit => if b.getLsbD (7 - bit) then some (cellIndex (col + bit) row) else none

/-- The cells under the set bits of a sprite, rows ascending, then bits ascending (R100). -/
def spriteCells (col : Nat) : Nat → List Byte → List Nat
  | _, [] => []
  | row, b :: bs => rowCells col row b ++ spriteCells col (row + 1) bs

/-- The `fault_info` of `DisplayBounds`: the first flat index above 2047 (R100, R111, R116). -/
def displayBounds (cells : List Nat) : Option Word :=
  (cells.find? fun k => decide (2047 < k)).map (BitVec.ofNat 16)

/-- The pressed keys, codes ascending (R106). -/
def State.pressedKeys (s : State) : List Byte :=
  [0x0, 0x1, 0x2, 0x3, 0x4, 0x5, 0x6, 0x7, 0x8, 0x9, 0xA, 0xB, 0xC, 0xD, 0xE, 0xF].filter fun k => s.keyDown k.toNat

/-- "any element of P": none when there is none, the key itself when there is one, a free choice among several
(R106, decision D4; log 3). -/
def State.chosenKey (s : State) : Option Byte :=
  match s.pressedKeys with
  | [] => none
  | [k] => some k
  | k :: ks => some ((k :: ks).getD (Config.keyChoice s.draws % (ks.length + 1)) k)

end Sys2Proof.Machine
end

