-- ==== Sys2Proof/Machine/Display.lean ====
section
/-! DEFINITION. Display (44_display.md): `00E0` and `Dxyn`. -/

namespace Sys2Proof.Machine

/-- CLS (R99). -/
def execCls (s : State) : Host.Outcome State Fault Refusal := .next ((s.setDisp 0).setRender true).advance

/-- The cells `Dxyn` addresses: the operands and the sprite are read once, before any write (R100, decision D21; log 15). -/
def State.drawTargets (s : State) (x y : RegNum) (n : BitVec 4) : List Nat :=
  spriteCells (s.getReg x).toNat (s.getReg y).toNat (s.readBytes (s.dataAddr 0) n.toNat)

/-- The writes of a `Dxyn` that does not fault: the cells flipped, then `VF`, `render` and `pc` (R100). -/
def State.draw (s : State) (cells : List Nat) : State :=
  let r := flipCells s.disp cells false
  (((s.setDisp r.1).setFlag (flagByte r.2)).setRender true).advance

/-- DRW Vx, Vy, n: `MemBounds` is tested before `DisplayBounds`, both before any write (R100, R115, R116; log 12). -/
def execDrw (x y : RegNum) (n : BitVec 4) (s : State) : Host.Outcome State Fault Refusal :=
  match s.memBounds n.toNat with
  | some info => .next (s.raise .memBounds info)
  | none =>
    match displayBounds (s.drawTargets x y n) with
    | some info => .next (s.raise .displayBounds info)
    | none => .next (s.draw (s.drawTargets x y n))

end Sys2Proof.Machine
end

