-- ==== Sys2Proof/Machine/Flow.lean ====
section
/-! DEFINITION. Control transfer (40_flow.md): `00EE`, `0nnn`, `1nnn`, `2nnn`, `Bnnn`. Writing `pc` never faults by itself (R64). -/

namespace Sys2Proof.Machine

/-- RET: pops the stack and steps over the call (R65); a pop of the empty stack raises `StackUnderflow` (decision D6; log 12). -/
def execRet (s : State) : Host.Outcome State Fault Refusal :=
  if s.sp.val = 0 then .next (s.raise .stackUnderflow s.pc)
  else
    let t := s.dropTop
    .next (t.setPc (t.stackEntry t.sp.val + 2))

/-- SYS nnn: "no state change", `pc` is not advanced (R66, decision D24; log 21). -/
def execSys (_nnn : BitVec 12) (s : State) : Host.Outcome State Fault Refusal := .next s

/-- JP nnn (R67). -/
def execJp (nnn : BitVec 12) (s : State) : Host.Outcome State Fault Refusal := .next (s.setPc (absolute nnn))

/-- CALL nnn: pushes its own address (R68); a push on the full stack raises `StackOverflow` (decision D6; log 12). -/
def execCall (nnn : BitVec 12) (s : State) : Host.Outcome State Fault Refusal :=
  if h : s.sp.val < 16 then .next ((s.push s.pc h).setPc (absolute nnn))
  else .next (s.raise .stackOverflow s.pc)

/-- JP V0, nnn (R69). -/
def execJpV0 (nnn : BitVec 12) (s : State) : Host.Outcome State Fault Refusal := .next (s.setPc (s.indexedTarget nnn))

end Sys2Proof.Machine
end

