-- ==== Sys2Proof/Machine/IndexMemory.lean ====
section
/-! DEFINITION. Index register, BCD store, register block store and load (43_index_memory.md): `Annn`, `Fx1E`, `Fx29`, `Fx33`, `Fx55`,
`Fx65`. The bounds check comes before any write (R90, R115); no load or store changes `I` (R90). -/

namespace Sys2Proof.Machine

/-- LD I, nnn (R91). -/
def execLdI (nnn : BitVec 12) (s : State) : Host.Outcome State Fault Refusal := .next (s.setI (absolute nnn)).advance

/-- ADD I, Vx: 16 bits wide, no flag (R92, decision D12; log 20). -/
def execAddI (x : RegNum) (s : State) : Host.Outcome State Fault Refusal :=
  .next (s.setI (s.i + (s.getReg x).zeroExtend 16)).advance

/-- LD F, Vx (R93). -/
def execLdF (x : RegNum) (s : State) : Host.Outcome State Fault Refusal := .next (s.setI (glyphAddr (s.getReg x))).advance

/-- LD B, Vx: the three decimal digits (R94). -/
def execLdB (x : RegNum) (s : State) : Host.Outcome State Fault Refusal :=
  match s.memBounds 3 with
  | some info => .next (s.raise .memBounds info)
  | none =>
    .next (((s.writeByte (s.dataAddr 0) (hundreds (s.getReg x))).writeByte (s.dataAddr 1) (tens (s.getReg x))).writeByte
      (s.dataAddr 2) (ones (s.getReg x))).advance

/-- LD [I], Vx: stores `V[0..x]` (R95). -/
def execStoreRegs (x : RegNum) (s : State) : Host.Outcome State Fault Refusal :=
  match s.memBounds (regCount x) with
  | some info => .next (s.raise .memBounds info)
  | none => .next (s.storeFirst (s.dataAddr 0) (regCount x)).advance

/-- LD Vx, [I]: loads `V[0..x]` (R96). -/
def execLoadRegs (x : RegNum) (s : State) : Host.Outcome State Fault Refusal :=
  match s.memBounds (regCount x) with
  | some info => .next (s.raise .memBounds info)
  | none => .next (s.loadFirst (s.dataAddr 0) (regCount x)).advance

end Sys2Proof.Machine
end

