-- ==== Sys2Proof/Machine/KeysTimers.lean ====
section
/-! DEFINITION. Key skips, key wait, timer access (45_keys_timers.md): `Ex9E`, `ExA1`, `Fx0A`, `Fx07`, `Fx15`, `Fx18`. -/

namespace Sys2Proof.Machine

/-- SKP Vx (R104); a code above 15 raises `KeyRange` (R103, decision D5; log 12). -/
def execSkp (x : RegNum) (s : State) : Host.Outcome State Fault Refusal :=
  if 15 < (s.getReg x).toNat then .next (s.raise .keyRange ((s.getReg x).zeroExtend 16))
  else .next (s.skipIf (s.keyDown (s.getReg x).toNat))

/-- SKNP Vx (R105); a code above 15 raises `KeyRange` (R103, decision D5; log 12). -/
def execSknp (x : RegNum) (s : State) : Host.Outcome State Fault Refusal :=
  if 15 < (s.getReg x).toNat then .next (s.raise .keyRange ((s.getReg x).zeroExtend 16))
  else .next (s.skipIf (!s.keyDown (s.getReg x).toNat))

/-- LD Vx, K: takes a pressed key, or changes nothing while none is down (R106, R110). -/
def execLdVxK (x : RegNum) (s : State) : Host.Outcome State Fault Refusal :=
  match s.chosenKey with
  | none => .next s
  | some k => .next (s.nextDraw.setReg x k).advance

/-- LD Vx, DT (R107). -/
def execLdVxDt (x : RegNum) (s : State) : Host.Outcome State Fault Refusal := .next (s.setReg x s.dt).advance

/-- LD DT, Vx (R108). -/
def execLdDtVx (x : RegNum) (s : State) : Host.Outcome State Fault Refusal := .next (s.setDt (s.getReg x)).advance

/-- LD ST, Vx: `sound_active` is not changed (R109, R27, decision D17; log 8). -/
def execLdStVx (x : RegNum) (s : State) : Host.Outcome State Fault Refusal := .next (s.setSt (s.getReg x)).advance

end Sys2Proof.Machine
end

