-- ==== Sys2Proof/Machine/Skip.lean ====
section
/-! DEFINITION. Conditional skips on register values (41_skip.md): `3xkk`, `4xkk`, `5xy0`, `9xy0`. -/

namespace Sys2Proof.Machine

/-- SE Vx, kk (R70, R71). -/
def execSeImm (x : RegNum) (kk : Byte) (s : State) : Host.Outcome State Fault Refusal :=
  .next (s.skipIf (decide (s.getReg x = kk)))

/-- SNE Vx, kk (R70, R72). -/
def execSneImm (x : RegNum) (kk : Byte) (s : State) : Host.Outcome State Fault Refusal :=
  .next (s.skipIf (decide (s.getReg x ≠ kk)))

/-- SE Vx, Vy (R70, R73). -/
def execSeReg (x y : RegNum) (s : State) : Host.Outcome State Fault Refusal :=
  .next (s.skipIf (decide (s.getReg x = s.getReg y)))

/-- SNE Vx, Vy (R70, R74). -/
def execSneReg (x y : RegNum) (s : State) : Host.Outcome State Fault Refusal :=
  .next (s.skipIf (decide (s.getReg x ≠ s.getReg y)))

end Sys2Proof.Machine
end

