-- ==== Sys2Proof/Machine/HostMoves.lean ====
section
/-! DEFINITION. The Tick move and the host's moves (60_exceptions.md R124, R127 to R131, 70_reset_and_hazards.md R134, R136). -/

namespace Sys2Proof.Machine

/-- The Tick move: disabled while halted (R114, R124; log 6). -/
def moveTick (s : State) : Host.Outcome State Fault Refusal :=
  if s.halted then .fault .coreHalted else .next s.tick

/-- `SetKey(k, down)`: changes what `KeyDown(k)` returns (R131). -/
def moveSetKey (k : BitVec 4) (down : Bool) (s : State) : Host.Outcome State Fault Refusal :=
  let level := BitVec.twoPow 16 k.toNat
  .next (s.setKeys (if down then s.keys ||| level else s.keys &&& ~~~level))

/-- `AckRender`: `render <- 0` (R128). -/
def moveAckRender (s : State) : Host.Outcome State Fault Refusal := .next (s.setRender false)

/-- `LoadProgram(bytes)`: the bytes at 0x200 upward, at most 3584, before the first Execute step (R129, R136; log 11). -/
def moveLoadProgram (bytes : List Byte) (s : State) : Host.Outcome State Fault Refusal :=
  if s.started then .refused .loadAfterStart
  else if bytes.length > Config.romMax then .refused .romTooLarge
  else .next (s.writeBytes Config.progBase bytes)

/-- The state after `Reset`: every field of the core at its reset value (R134). The key levels and the schedule are the host's, and the
free draws already taken stay taken (logs 1, 2, 19). -/
def State.hostReset (s : State) : State :=
  ((State.reset.setKeys s.keys).setAgenda s.agenda).setDraws s.draws

/-- `Reset`: allowed at any time between steps, halted or not (R131, R134, decision D29; log 19). -/
def moveReset (s : State) : Host.Outcome State Fault Refusal := .next s.hostReset

end Sys2Proof.Machine
end

