-- ==== Sys2Proof/Machine/Cycle.lean ====
section
/-! DEFINITION. The Execute step (10_state.md R12), which move comes next (R10, R13), one move, and the diagnostic events
(60_exceptions.md R130). -/

namespace Sys2Proof.Machine

/-- An instruction can be fetched from `pc`: `pc ≤ 4094` (R16, R36). -/
def State.fetchable (s : State) : Bool := decide (s.pc.toNat ≤ 4094)

/-- `MemRead(pc, 2)`: the high byte at `pc`, the low byte at `pc + 1` (R35, R36). -/
def State.fetchWord (s : State) : Word := wordOfBytes (s.readByte s.pc.toNat) (s.readByte (s.pc.toNat + 1))

/-- The state an instruction executes in: the word is latched in `op`, the run has started, `pc` is not advanced (R12, R16, R25). -/
def State.fetched (s : State) : State := (s.setStarted true).setOp s.fetchWord

/-- The Execute step: disabled while halted, then `FetchBounds`, then `IllegalOpcode`, then the instruction (R12, R112, R116). -/
def executeStep (s : State) : Host.Outcome State Fault Refusal :=
  if s.halted then .fault .coreHalted
  else if s.fetchable then
    match decodeWord s.fetchWord with
    | some i => exec i s.fetched
    | none => .next (s.fetched.raise .illegalOpcode s.fetchWord)
  else .next ((s.setStarted true).raise .fetchBounds s.pc)

/-- One move (R10, R131). -/
def perform (m : Move) (s : State) : Host.Outcome State Fault Refusal :=
  match m with
  | .execute => executeStep s
  | .tick => moveTick s
  | .setKey k down => moveSetKey k down s
  | .ackRender => moveAckRender s
  | .loadProgram bytes => moveLoadProgram bytes s
  | .reset => moveReset s

/-- The move that comes next: the first of the schedule, Execute when the schedule is empty (R13; log 1). -/
def State.nextMove (s : State) : Move := s.agenda.headD .execute

/-- The state with that move taken off the schedule. -/
def State.takeMove (s : State) : State := s.setAgenda s.agenda.tail

/-- The diagnostic events, outputs with no effect on state (R130, decision D31; log 22). -/
inductive Diag where
  /-- `DiagLegacy(op)`, from `0nnn` -/
  | legacy (op : Word)
  /-- `DiagFatal(code, info)`, from any fault -/
  | fatal (code : BitVec 3) (info : Word)
  deriving DecidableEq, Repr

/-- The event an Execute step emits, if any (R66, R114, R130). -/
def executeDiag (s : State) : Option Diag :=
  match executeStep s with
  | .next t =>
    if t.halted then some (.fatal t.faultCause t.faultInfo)
    else match decodeWord t.op with
      | some (.sys _) => some (.legacy t.op)
      | _ => none
  | .fault _ => none
  | .refused _ => none

/-- The event the next step emits, if any. -/
def stepDiag (s : State) : Option Diag :=
  match s.nextMove with
  | .execute => executeDiag s.takeMove
  | .tick | .setKey _ _ | .ackRender | .loadProgram _ | .reset => none

end Sys2Proof.Machine
end

