-- ==== Sys2Proof/Machine/Step.lean ====
section
/-! DEFINITION. One step of the machine: the next move of the schedule, performed (10_state.md R10 to R13). -/

namespace Sys2Proof.Machine

/-- One step: the move that comes next is taken off the schedule and performed. -/
def step (s : State) : Host.Outcome State Fault Refusal := perform s.nextMove s.takeMove

/-- The state with an instruction word stored where the next step fetches it (log 23). -/
def State.withFetchWord (s : State) (nbits w : Nat) : State := s.placeInstruction (tableBytes nbits w)

end Sys2Proof.Machine
end

