-- ==== Sys2Proof/Safety.lean ====
section
/-! DEFINITION. The terms claims are stated in: the parts of the state and frames over them, what each instruction may write, the
invariant every step keeps, and the cells a sprite addresses as 44_display.md R100 writes them. -/

namespace Sys2Proof.Machine

/-- A piece of the state that an instruction either writes or leaves alone. -/
inductive Part where
  | reg (r : RegNum)
  | byte (a : Nat)
  | cell (k : Nat)
  | entry (k : Nat)
  | pc
  | i
  | sp
  | render
  | dt
  | st
  | op
  | halted
  | faultCause
  | faultInfo
  | soundActive
  | keys
  | agenda
  | draws
  | started
  deriving DecidableEq, Repr

/-- The part holds the same in both states; a byte of memory is compared through the model's read of one byte. -/
def Part.same : Part → State → State → Prop
  | .reg r, s, t => t.getReg r = s.getReg r
  | .byte a, s, t => t.readByte a = s.readByte a
  | .cell k, s, t => t.cell k = s.cell k
  | .entry k, s, t => t.stackEntry k = s.stackEntry k
  | .pc, s, t => t.pc = s.pc
  | .i, s, t => t.i = s.i
  | .sp, s, t => t.sp = s.sp
  | .render, s, t => t.render = s.render
  | .dt, s, t => t.dt = s.dt
  | .st, s, t => t.st = s.st
  | .op, s, t => t.op = s.op
  | .halted, s, t => t.halted = s.halted
  | .faultCause, s, t => t.faultCause = s.faultCause
  | .faultInfo, s, t => t.faultInfo = s.faultInfo
  | .soundActive, s, t => t.soundActive = s.soundActive
  | .keys, s, t => t.keys = s.keys
  | .agenda, s, t => t.agenda = s.agenda
  | .draws, s, t => t.draws = s.draws
  | .started, s, t => t.started = s.started

/-- Every part outside `written` is left as it was. -/
def Frame (written : Part → Prop) (s t : State) : Prop := ∀ p, ¬ written p → p.same s t

/-- What an instruction may write when it does not fault: the tables of R14, R17, R18, R19, R20, R22, R23, R24 and the "only" sentences
of the family files, read by instruction. The free-draw counter is the model's own (log 2). -/
def Instr.writes (i : Instr) (s : State) (p : Part) : Prop :=
  match i with
  | .cls => p = .pc ∨ p = .render ∨ ∃ k, p = .cell k
  | .ret => p = .pc ∨ p = .sp
  | .sys _ => False
  | .jp _ => p = .pc
  | .call _ => p = .pc ∨ p = .sp ∨ p = .entry s.sp.val
  | .seImm _ _ => p = .pc
  | .sneImm _ _ => p = .pc
  | .seReg _ _ => p = .pc
  | .ldImm x _ => p = .pc ∨ p = .reg x
  | .addImm x _ => p = .pc ∨ p = .reg x
  | .ldReg x _ => p = .pc ∨ p = .reg x
  | .orReg x _ => p = .pc ∨ p = .reg x
  | .andReg x _ => p = .pc ∨ p = .reg x
  | .xorReg x _ => p = .pc ∨ p = .reg x
  | .addReg x _ => p = .pc ∨ p = .reg x ∨ p = .reg flagReg
  | .sub x _ => p = .pc ∨ p = .reg x ∨ p = .reg flagReg
  | .shr x _ => p = .pc ∨ p = .reg x ∨ p = .reg flagReg
  | .subn x _ => p = .pc ∨ p = .reg x ∨ p = .reg flagReg
  | .shl x _ => p = .pc ∨ p = .reg x ∨ p = .reg flagReg
  | .sneReg _ _ => p = .pc
  | .ldI _ => p = .pc ∨ p = .i
  | .jpV0 _ => p = .pc
  | .rnd x _ => p = .pc ∨ p = .reg x ∨ p = .draws
  | .drw x y n => p = .pc ∨ p = .reg flagReg ∨ p = .render ∨ ∃ k, p = .cell k ∧ k ∈ s.drawTargets x y n
  | .skp _ => p = .pc
  | .sknp _ => p = .pc
  | .ldVxDt x => p = .pc ∨ p = .reg x
  | .ldVxK x => p = .pc ∨ p = .reg x ∨ p = .draws
  | .ldDtVx _ => p = .pc ∨ p = .dt
  | .ldStVx _ => p = .pc ∨ p = .st
  | .addI _ => p = .pc ∨ p = .i
  | .ldF _ => p = .pc ∨ p = .i
  | .ldB _ => p = .pc ∨ ∃ a, p = .byte a ∧ s.dataAddr 0 ≤ a ∧ a < s.dataAddr 3
  | .storeRegs x => p = .pc ∨ ∃ a, p = .byte a ∧ s.dataAddr 0 ≤ a ∧ a < s.dataAddr (regCount x)
  | .loadRegs x => p = .pc ∨ ∃ r, p = .reg r ∧ r.toNat ≤ x.toNat

/-- The faults each instruction can raise by itself: "Raised by" of R111. -/
def Instr.mayRaise (i : Instr) (t : Trap) : Bool :=
  match i with
  | .call _ => t == .stackOverflow
  | .ret => t == .stackUnderflow
  | .drw _ _ _ => t == .memBounds || t == .displayBounds
  | .ldB _ | .storeRegs _ | .loadRegs _ => t == .memBounds
  | .skp _ | .sknp _ => t == .keyRange
  | .cls | .sys _ | .jp _ | .seImm _ _ | .sneImm _ _ | .seReg _ _ | .ldImm _ _ | .addImm _ _ | .ldReg _ _
  | .orReg _ _ | .andReg _ _ | .xorReg _ _ | .addReg _ _ | .sub _ _ | .shr _ _ | .subn _ _ | .shl _ _ | .sneReg _ _
  | .ldI _ | .jpV0 _ | .rnd _ _ | .ldVxDt _ | .ldVxK _ | .ldDtVx _ | .ldStVx _ | .addI _ | .ldF _ => false

/-- The fault latch is all zero while the core runs, and holds a cause when it is halted (R111 row 0, R114). -/
def State.latchOk (s : State) : Prop :=
  if s.halted then s.faultCause ≠ 0 else s.faultCause = 0 ∧ s.faultInfo = 0

/-- Every entry in use was pushed by a call executed at `pc ≤ 4094` (R65, R68). -/
def State.stackOk (s : State) : Prop := ∀ k, k < s.sp.val → (s.stackEntry k).toNat ≤ 4094

/-- What holds in every reachable state: memory in its canonical form, `pc ≤ 0x10FE` (R17), the stack entries in use fetchable
addresses (R65), the fault latch consistent (R111, R114). -/
def State.Inv (s : State) : Prop := s.mem.wf ∧ s.pc.toNat ≤ 0x10FE ∧ s.stackOk ∧ s.latchOk

/-- The sprite bit `bit` of row `row` is set: bit 0 of the loop is the most significant bit of the byte at `I + row` (R100, D3; log 13). -/
def State.spriteBit (s : State) (row bit : Nat) : Bool := (s.readByte (s.i.toNat + row)).getLsbD (7 - bit)

/-- The flat index of a sprite bit: `(V[x] + bit) + 64 * (V[y] + row)` (R100). -/
def State.spriteIndex (s : State) (x y : RegNum) (row bit : Nat) : Nat :=
  ((s.getReg x).toNat + bit) + 64 * ((s.getReg y).toNat + row)

/-- The cell is under a set bit of the sprite: a "target" of R101. -/
def State.spriteTarget (s : State) (x y : RegNum) (n : BitVec 4) (k : Nat) : Prop :=
  ∃ row bit, row < n.toNat ∧ bit < 8 ∧ s.spriteBit row bit = true ∧ k = s.spriteIndex x y row bit

/-- An executing state from which the word at `pc` is a `0nnn` (R66). -/
def State.atSys (s : State) : Prop :=
  s.halted = false ∧ s.pc.toNat ≤ 4094 ∧ ∃ nnn, decodeWord s.fetchWord = some (.sys nnn)

/-- The moves that are neither a reset nor a program load. -/
def Move.isOrdinary : Move → Bool
  | .execute | .tick | .setKey _ _ | .ackRender => true
  | .loadProgram _ | .reset => false

end Sys2Proof.Machine
end

