-- ==== Sys2Proof/Certificates/Slice0/Obligations.lean ====
section
/-! DEFINITION. The statements for the provers. Each docstring names the rule or section of spec/ it rests on, and, where it rests on a
decision the spec marks as its own or on a choice of the model, says so. -/

open Sys2Proof Sys2Proof.Machine

/-! Decoding and encoding. -/

/-- Words written out bit by bit from the formats and the opcode map of 30_encoding.md sections 1 and 3, one or more per instruction family,
and two words of the illegal list of section 4; that 0x5AB1 is illegal is decision D14 (log 17). -/
def Obligations.SampleWordsDecode : Prop :=
  decodeWord 0b0000000011100000#16 = some .cls ∧
  decodeWord 0b0010101010111100#16 = some (.call 0xABC#12) ∧
  decodeWord 0b0101101010110000#16 = some (.seReg 0xA#4 0xB#4) ∧
  decodeWord 0b1000101010110101#16 = some (.sub 0xA#4 0xB#4) ∧
  decodeWord 0b1010101010111100#16 = some (.ldI 0xABC#12) ∧
  decodeWord 0b1101000100100011#16 = some (.drw 0x1#4 0x2#4 0x3#4) ∧
  decodeWord 0b1110000110011110#16 = some (.skp 0x1#4) ∧
  decodeWord 0b1111000101100101#16 = some (.loadRegs 0x1#4) ∧
  decodeWord 0b0101101010110001#16 = none ∧
  decodeWord 0b1000101010111000#16 = none

/-- Decoding the encoding of a well-formed instruction gives it back with every operand at every value, in the word and in the bytes
(30_encoding.md section 5; the spec marks this as its own derivation). -/
def Obligations.DecodeOfEncode : Prop :=
  ∀ i : Instr, i.wellFormed = true →
    decodeWord (encodeWord i) = some i ∧ ∀ rest, decode (encode i ++ rest) = .ok (i, rest)

/-- Encoding what a word decodes to gives the word back, so no bit of a legal word is dropped (30_encoding.md section 5; derived there). -/
def Obligations.EncodeOfDecode : Prop :=
  ∀ (w : Word) (i : Instr), decodeWord w = some i → i.wellFormed = true ∧ encodeWord i = w

/-- A word decodes to a form of the row of the opcode map that selects it, the SYS row only when neither fixed word matches
(30_encoding.md section 3). -/
def Obligations.RowSelectsForm : Prop :=
  (∀ (w : Word) (i : Instr), decodeWord w = some i → i.row.covers w = true) ∧
  (∀ (w : Word) (j : Instr), j.row.covers w = true → (j.row = ⟨0x0000, 0xF000⟩ → w ≠ 0x00E0 ∧ w ≠ 0x00EE) →
    ∃ i, decodeWord w = some i ∧ i.row = j.row)

/-- The illegal words are exactly those of the list of 30_encoding.md section 4 (which rests on decision D14, log 17). -/
def Obligations.IllegalWordsListed : Prop :=
  ∀ w : Word, decodeWord w = none ↔
    (fieldGrp w = 0x5 ∧ fieldN w ≠ 0) ∨
    (fieldGrp w = 0x8 ∧ fieldN w ∈ [0x8#4, 0x9#4, 0xA#4, 0xB#4, 0xC#4, 0xD#4, 0xF#4]) ∨
    (fieldGrp w = 0x9 ∧ fieldN w ≠ 0) ∨
    (fieldGrp w = 0xE ∧ fieldKk w ∉ [0x9E#8, 0xA1#8]) ∨
    (fieldGrp w = 0xF ∧ fieldKk w ∉ [0x07#8, 0x0A#8, 0x15#8, 0x18#8, 0x1E#8, 0x29#8, 0x33#8, 0x55#8, 0x65#8])

/-! The Execute step. -/

/-- When Execute is the next move, the core is not halted and the word at `pc` decodes to `i`, the step is exactly `exec i` of the
state with the move taken off the schedule, the word latched in `op` and the run marked as started; `pc` still holds the
instruction's own address (10_state.md section 1 and R25; `agenda` and `started` are the model's own, logs 1 and 11). -/
def Obligations.StepRunsDecodedInstruction : Prop :=
  ∀ (s : State) (i : Instr) (w : Word), s.nextMove = .execute → s.halted = false → s.pc.toNat ≤ 4094 →
    w.toNat = (s.readByte s.pc.toNat).toNat * 256 + (s.readByte (s.pc.toNat + 1)).toNat →
    decodeWord w = some i →
    step s = exec i { s with agenda := s.agenda.tail, op := w, started := true }

/-- An undecodable word: `IllegalOpcode(op)` is taken after the fetch and before any effect (60_exceptions.md sections 1 and 2;
the latch is decision D18, log 6). -/
def Obligations.IllegalWordTakesFault : Prop :=
  ∀ (s : State) (w : Word), s.nextMove = .execute → s.halted = false → s.pc.toNat ≤ 4094 →
    w.toNat = (s.readByte s.pc.toNat).toNat * 256 + (s.readByte (s.pc.toNat + 1)).toNat →
    decodeWord w = none →
    step s = .next { s with agenda := s.agenda.tail, op := w, started := true, halted := true, faultCause := 1, faultInfo := w }

/-- Above 4094 nothing is fetched: `FetchBounds(pc)` is taken, whatever memory holds (20_memory.md section 2; decision D9, log 12). -/
def Obligations.FetchBoundsTakesFault : Prop :=
  ∀ s : State, s.nextMove = .execute → s.halted = false → 4094 < s.pc.toNat →
    step s = .next { s with agenda := s.agenda.tail, started := true, halted := true, faultCause := 2, faultInfo := s.pc }

/-- While halted neither an Execute step nor a Tick step has a next state, and no move but Reset clears `halted`
(60_exceptions.md section 2; decisions D18 and D29, logs 6 and 19). -/
def Obligations.HaltedCoreStaysHalted : Prop :=
  ∀ s : State, s.halted = true →
    (s.nextMove = .execute ∨ s.nextMove = .tick → step s = .fault .coreHalted) ∧
    (∀ t, step s = .next t → s.nextMove ≠ .reset →
      t.halted = true ∧ t.faultCause = s.faultCause ∧ t.faultInfo = s.faultInfo ∧ t.pc = s.pc)

/-- Every instruction answers a next state from every state: none is refused and none stops the model. That taking a halting fault
(60_exceptions.md section 2, decision D18) is such a next state is the model's choice (log 6). -/
def Obligations.EveryInstructionAnswers : Prop :=
  ∀ (i : Instr) (s : State), ∃ t, exec i s = .next t

/-- Faults are precise and come only from the instructions of the fault table: an instruction that halts the core wrote the fault latch
and nothing else (60_exceptions.md sections 1 and 2; decisions D18 to D20, log 12). -/
def Obligations.InstructionFaultsArePrecise : Prop :=
  ∀ (i : Instr) (s t : State), s.halted = false → exec i s = .next t → t.halted = true →
    ∃ f info, Instr.mayRaise i f = true ∧ t = { s with halted := true, faultCause := f.code, faultInfo := info }

/-- Over all instructions: what each may write, and nothing else is ever changed unless the instruction faults, and then only the latch
is (10_state.md R14, R17 to R24 read by instruction; the draw counter is the model's own, log 2). -/
def Obligations.InstructionsWriteOnlyTheirParts : Prop :=
  ∀ (i : Instr) (s t : State), exec i s = .next t →
    (∃ f info, Instr.mayRaise i f = true ∧ t = s.raise f info) ∨ Frame (Instr.writes i s) s t

/-- The diagnostic outputs: a `0nnn` emits its word, an undecodable word the fatal event with cause 1 and the word
(60_exceptions.md R130 and 40_flow.md R66; decision D31, log 22). -/
def Obligations.DiagnosticsNameTheOpcode : Prop :=
  ∀ s : State, s.nextMove = .execute → s.halted = false → s.pc.toNat ≤ 4094 →
    (∀ nnn, decodeWord s.fetchWord = some (.sys nnn) → stepDiag s = some (.legacy s.fetchWord)) ∧
    (decodeWord s.fetchWord = none → stepDiag s = some (.fatal 1 s.fetchWord))

/-! Control transfer. -/

/-- 40_flow.md "1nnn: JP nnn": JP writes `nnn` to `pc` and nothing else. -/
def Obligations.JumpWritesTarget : Prop :=
  ∀ (nnn : BitVec 12) (s : State), ∃ t, exec (.jp nnn) s = .next t ∧
    t.pc.toNat = nnn.toNat ∧ Frame (fun p => p = .pc) s t

/-- 40_flow.md "Bnnn: JP V0, nnn": JP V0 writes `nnn + V[0]` to `pc`, not reduced to 12 bits, and nothing else. -/
def Obligations.IndexedJumpAddsV0 : Prop :=
  ∀ (nnn : BitVec 12) (s : State), ∃ t, exec (.jpV0 nnn) s = .next t ∧
    t.pc.toNat = nnn.toNat + (s.getReg 0).toNat ∧ Frame (fun p => p = .pc) s t

/-- 40_flow.md "2nnn: CALL nnn": with room on the stack, the call's own address is pushed and `pc` becomes `nnn`. -/
def Obligations.CallPushesItsAddress : Prop :=
  ∀ (nnn : BitVec 12) (s : State), s.sp.val < 16 → ∃ t, exec (.call nnn) s = .next t ∧
    t.stackEntry s.sp.val = s.pc ∧ t.sp.val = s.sp.val + 1 ∧ t.pc.toNat = nnn.toNat ∧
    Frame (fun p => p = .pc ∨ p = .sp ∨ p = .entry s.sp.val) s t

/-- 40_flow.md "00EE: RET": with a call outstanding, `pc` becomes the top entry plus 2, and the entry stays in the stack. -/
def Obligations.ReturnPopsPastTheCall : Prop :=
  ∀ s : State, 0 < s.sp.val → ∃ t, exec .ret s = .next t ∧
    t.sp.val + 1 = s.sp.val ∧ t.pc = s.stackEntry (s.sp.val - 1) + 2 ∧
    Frame (fun p => p = .pc ∨ p = .sp) s t

/-- A call followed by a return goes on after the call with the stack pointer restored, whatever ran in between left the stack as the call
left it (40_flow.md R65 and R68 together). -/
def Obligations.CallThenReturnResumes : Prop :=
  ∀ (nnn : BitVec 12) (s t u v : State), s.sp.val < 16 → exec (.call nnn) s = .next t →
    u.stack = t.stack → u.sp = t.sp → exec .ret u = .next v → v.pc = s.pc + 2 ∧ v.sp = s.sp

/-- Push on the full stack and pop of the empty one fault and write the latch only, with `pc` as the information
(60_exceptions.md section 1; decision D6, log 12). -/
def Obligations.StackFaultsTaken : Prop :=
  (∀ (nnn : BitVec 12) (s : State), s.sp.val = 16 →
    exec (.call nnn) s = .next { s with halted := true, faultCause := 3, faultInfo := s.pc }) ∧
  (∀ s : State, s.sp.val = 0 →
    exec .ret s = .next { s with halted := true, faultCause := 4, faultInfo := s.pc })

/-- 40_flow.md "0nnn: SYS nnn": the legacy no-op changes nothing, `pc` included (decision D24, log 21). -/
def Obligations.LegacyNoOpChangesNothing : Prop :=
  ∀ (nnn : BitVec 12) (s : State), exec (.sys nnn) s = .next s

/-- Once reached, a `0nnn` is repeated for ever: whatever Execute, Tick, key and acknowledge moves follow, every step has a next state, the
core is not halted, and `pc`, the registers and memory never change (40_flow.md "0nnn: SYS nnn"; decision D24, log 21). -/
def Obligations.LegacyNoOpLivelock : Prop :=
  ∀ (n : Nat) (s : State), s.atSys → (∀ m ∈ s.agenda, m.isOrdinary = true) →
    ∃ t, Host.Core.run core n s = .next t ∧ t.atSys ∧ t.pc = s.pc ∧
      (∀ a, t.readByte a = s.readByte a) ∧ (∀ r, t.getReg r = s.getReg r)

/-! Skips. -/

/-- R71, R72: the skips on an immediate, and the words that encode them. -/
def Obligations.SkipsOnImmediate : Prop :=
  ∀ (x : RegNum) (kk : Byte) (s : State),
    decodeWord (0x3#4 ++ x ++ kk) = some (.seImm x kk) ∧ decodeWord (0x4#4 ++ x ++ kk) = some (.sneImm x kk) ∧
    (∃ t, exec (.seImm x kk) s = .next t ∧ t.pc = s.pc + (if s.getReg x = kk then 4 else 2) ∧ Frame (fun p => p = .pc) s t) ∧
    (∃ t, exec (.sneImm x kk) s = .next t ∧ t.pc = s.pc + (if s.getReg x ≠ kk then 4 else 2) ∧ Frame (fun p => p = .pc) s t)

/-- 41_skip.md "5xy0" and "9xy0": the skips on two registers, and the words that encode them; that a low nibble other than 0 is illegal
rests on decision D14 (log 17). -/
def Obligations.SkipsOnRegisters : Prop :=
  ∀ (x y : RegNum) (s : State),
    decodeWord (0x5#4 ++ x ++ y ++ 0x0#4) = some (.seReg x y) ∧ decodeWord (0x9#4 ++ x ++ y ++ 0x0#4) = some (.sneReg x y) ∧
    (∀ n : BitVec 4, n ≠ 0 → decodeWord (0x5#4 ++ x ++ y ++ n) = none ∧ decodeWord (0x9#4 ++ x ++ y ++ n) = none) ∧
    (∃ t, exec (.seReg x y) s = .next t ∧
      t.pc = s.pc + (if s.getReg x = s.getReg y then 4 else 2) ∧ Frame (fun p => p = .pc) s t) ∧
    (∃ t, exec (.sneReg x y) s = .next t ∧
      t.pc = s.pc + (if s.getReg x ≠ s.getReg y then 4 else 2) ∧ Frame (fun p => p = .pc) s t)

/-! Load, arithmetic, logic, shifts, random. -/

/-- R76, R78: load immediate and copy register write `V[x]` and `pc` only, `VF` only when it is `V[x]`; and the words that encode them. -/
def Obligations.LoadsWriteOneRegister : Prop :=
  ∀ (x y : RegNum) (kk : Byte) (s : State),
    decodeWord (0x6#4 ++ x ++ kk) = some (.ldImm x kk) ∧ decodeWord (0x8#4 ++ x ++ y ++ 0x0#4) = some (.ldReg x y) ∧
    (∃ t, exec (.ldImm x kk) s = .next t ∧ t.getReg x = kk ∧ t.pc = s.pc + 2 ∧ Frame (fun p => p = .pc ∨ p = .reg x) s t) ∧
    (∃ t, exec (.ldReg x y) s = .next t ∧ t.getReg x = s.getReg y ∧ t.pc = s.pc + 2 ∧
      Frame (fun p => p = .pc ∨ p = .reg x) s t)

/-- R77: add immediate wraps modulo 256 and sets no flag; and the word that encodes it. -/
def Obligations.AddImmediateWraps : Prop :=
  ∀ (x : RegNum) (kk : Byte) (s : State), decodeWord (0x7#4 ++ x ++ kk) = some (.addImm x kk) ∧
    ∃ t, exec (.addImm x kk) s = .next t ∧
    (t.getReg x).toNat = ((s.getReg x).toNat + kk.toNat) % 256 ∧ t.pc = s.pc + 2 ∧
    Frame (fun p => p = .pc ∨ p = .reg x) s t

/-- R79, R80, R81: the logical operations, bit by bit; they set no flag; and the words that encode them. -/
def Obligations.LogicIsBitwise : Prop :=
  ∀ (x y : RegNum) (s : State),
    decodeWord (0x8#4 ++ x ++ y ++ 0x1#4) = some (.orReg x y) ∧ decodeWord (0x8#4 ++ x ++ y ++ 0x2#4) = some (.andReg x y) ∧
    decodeWord (0x8#4 ++ x ++ y ++ 0x3#4) = some (.xorReg x y) ∧
    (∃ t, exec (.orReg x y) s = .next t ∧
      (∀ b, b < 8 → (t.getReg x).getLsbD b = ((s.getReg x).getLsbD b || (s.getReg y).getLsbD b)) ∧ t.pc = s.pc + 2 ∧
      Frame (fun p => p = .pc ∨ p = .reg x) s t) ∧
    (∃ t, exec (.andReg x y) s = .next t ∧
      (∀ b, b < 8 → (t.getReg x).getLsbD b = ((s.getReg x).getLsbD b && (s.getReg y).getLsbD b)) ∧ t.pc = s.pc + 2 ∧
      Frame (fun p => p = .pc ∨ p = .reg x) s t) ∧
    (∃ t, exec (.xorReg x y) s = .next t ∧
      (∀ b, b < 8 → (t.getReg x).getLsbD b = ((s.getReg x).getLsbD b ^^ (s.getReg y).getLsbD b)) ∧ t.pc = s.pc + 2 ∧
      Frame (fun p => p = .pc ∨ p = .reg x) s t)

/-- 42_alu.md "8xy4": the sum modulo 256 and the carry; with `x = 0xF` the sum wins over the carry, with `y = 0xF` the old `VF` is the
addend (the order of the two writes is decision D13, log 14). -/
def Obligations.AddWithCarry : Prop :=
  ∀ (x y : RegNum) (s : State), ∃ t, exec (.addReg x y) s = .next t ∧
    (t.getReg x).toNat = ((s.getReg x).toNat + (s.getReg y).toNat) % 256 ∧
    (x ≠ flagReg → t.vf = if 255 < (s.getReg x).toNat + (s.getReg y).toNat then 1 else 0) ∧
    t.pc = s.pc + 2 ∧ Frame (fun p => p = .pc ∨ p = .reg x ∨ p = .reg flagReg) s t

/-- 42_alu.md "8xy5" and "8xy7" with `VF` not named: the difference modulo 256, and `VF` = strictly greater, 0 on equal operands. -/
def Obligations.SubtractionsWithoutVf : Prop :=
  ∀ (x y : RegNum) (s : State), x ≠ flagReg → y ≠ flagReg →
    (∃ t, exec (.sub x y) s = .next t ∧
      (t.getReg x).toNat = ((s.getReg x).toNat + 256 - (s.getReg y).toNat) % 256 ∧
      t.vf = (if (s.getReg y).toNat < (s.getReg x).toNat then 1 else 0) ∧
      t.pc = s.pc + 2 ∧ Frame (fun p => p = .pc ∨ p = .reg x ∨ p = .reg flagReg) s t) ∧
    (∃ t, exec (.subn x y) s = .next t ∧
      (t.getReg x).toNat = ((s.getReg y).toNat + 256 - (s.getReg x).toNat) % 256 ∧
      t.vf = (if (s.getReg x).toNat < (s.getReg y).toNat then 1 else 0) ∧
      t.pc = s.pc + 2 ∧ Frame (fun p => p = .pc ∨ p = .reg x ∨ p = .reg flagReg) s t)

/-- 42_alu.md "The flag register as an operand", rows `8xy5` and `8xy7`: the subtraction reads the flag it has just written
(decision D13, log 14). -/
def Obligations.SubtractionsNamingVf : Prop :=
  ∀ (y : RegNum) (s : State), y ≠ flagReg →
    (∃ t, exec (.sub flagReg y) s = .next t ∧
      t.vf.toNat = ((if (s.getReg y).toNat < s.vf.toNat then 1 else 0) + 256 - (s.getReg y).toNat) % 256 ∧
      t.pc = s.pc + 2 ∧ Frame (fun p => p = .pc ∨ p = .reg flagReg) s t) ∧
    (∃ t, exec (.sub y flagReg) s = .next t ∧
      t.vf = (if s.vf.toNat < (s.getReg y).toNat then 1 else 0) ∧
      (t.getReg y).toNat = ((s.getReg y).toNat + 256 - t.vf.toNat) % 256 ∧
      t.pc = s.pc + 2 ∧ Frame (fun p => p = .pc ∨ p = .reg y ∨ p = .reg flagReg) s t) ∧
    (∃ t, exec (.subn flagReg y) s = .next t ∧
      t.vf.toNat = ((s.getReg y).toNat + 256 - (if s.vf.toNat < (s.getReg y).toNat then 1 else 0)) % 256 ∧
      t.pc = s.pc + 2 ∧ Frame (fun p => p = .pc ∨ p = .reg flagReg) s t) ∧
    (∃ t, exec (.subn y flagReg) s = .next t ∧
      t.vf = (if (s.getReg y).toNat < s.vf.toNat then 1 else 0) ∧
      (t.getReg y).toNat = (t.vf.toNat + 256 - (s.getReg y).toNat) % 256 ∧
      t.pc = s.pc + 2 ∧ Frame (fun p => p = .pc ∨ p = .reg y ∨ p = .reg flagReg) s t) ∧
    (∃ t, exec (.sub flagReg flagReg) s = .next t ∧ t.vf = 0 ∧ t.pc = s.pc + 2 ∧
      Frame (fun p => p = .pc ∨ p = .reg flagReg) s t) ∧
    (∃ t, exec (.subn flagReg flagReg) s = .next t ∧ t.vf = 0 ∧ t.pc = s.pc + 2 ∧
      Frame (fun p => p = .pc ∨ p = .reg flagReg) s t)

/-- 42_alu.md "8xy6" and "8xyE": shifts of `V[x]` by one with the bit shifted out in `VF`; `y` never matters; with `x = 0xF`, `VF` ends as 0
after a right shift and as twice its old bit 7 after a left shift (decision D13, log 14). -/
def Obligations.ShiftsByOne : Prop :=
  ∀ (x y : RegNum) (s : State),
    (∃ t, exec (.shr x y) s = .next t ∧
      (x ≠ flagReg → (t.getReg x).toNat = (s.getReg x).toNat / 2 ∧ t.vf.toNat = (s.getReg x).toNat % 2) ∧
      (x = flagReg → t.vf = 0) ∧
      t.pc = s.pc + 2 ∧ Frame (fun p => p = .pc ∨ p = .reg x ∨ p = .reg flagReg) s t) ∧
    (∃ t, exec (.shl x y) s = .next t ∧
      (x ≠ flagReg → (t.getReg x).toNat = (s.getReg x).toNat * 2 % 256 ∧ t.vf.toNat = (s.getReg x).toNat / 128) ∧
      (x = flagReg → t.vf.toNat = 2 * (s.vf.toNat / 128)) ∧
      t.pc = s.pc + 2 ∧ Frame (fun p => p = .pc ∨ p = .reg x ∨ p = .reg flagReg) s t)

/-- 42_alu.md "Cxkk": the free byte of this draw, masked by `kk`; no bit outside `kk` is set, and the draw is used up (the free draw is
log 2). -/
def Obligations.RandomByteIsMasked : Prop :=
  ∀ (x : RegNum) (kk : Byte) (s : State), ∃ t, exec (.rnd x kk) s = .next t ∧
    t.getReg x = Config.randomByte s.draws &&& kk ∧ t.getReg x &&& ~~~kk = 0 ∧ t.draws = s.draws + 1 ∧
    t.pc = s.pc + 2 ∧ Frame (fun p => p = .pc ∨ p = .reg x ∨ p = .draws) s t

/-! Index register and memory. -/

/-- R91: LD I loads the 12-bit address; and the word that encodes it. -/
def Obligations.LoadIndexRegister : Prop :=
  ∀ (nnn : BitVec 12) (s : State), decodeWord (0xA#4 ++ nnn) = some (.ldI nnn) ∧ ∃ t, exec (.ldI nnn) s = .next t ∧
    t.i.toNat = nnn.toNat ∧ t.pc = s.pc + 2 ∧ Frame (fun p => p = .pc ∨ p = .i) s t

/-- 43_index_memory.md "Fx1E": the sum wraps at 16 bits and sets no flag (decision D12, log 20). -/
def Obligations.AddToIndexWrapsAt16Bits : Prop :=
  ∀ (x : RegNum) (s : State), ∃ t, exec (.addI x) s = .next t ∧
    t.i.toNat = (s.i.toNat + (s.getReg x).toNat) % 65536 ∧ t.pc = s.pc + 2 ∧ Frame (fun p => p = .pc ∨ p = .i) s t

/-- 43_index_memory.md "Fx29": `FONT_BASE + 5 * V[x]`, exact, with the whole byte (decisions D1 and D30, logs 4 and 20). -/
def Obligations.GlyphAddressIsExact : Prop :=
  ∀ (x : RegNum) (s : State), ∃ t, exec (.ldF x) s = .next t ∧
    t.i.toNat = Config.fontBase.val + 5 * (s.getReg x).toNat ∧ t.pc = s.pc + 2 ∧ Frame (fun p => p = .pc ∨ p = .i) s t

/-- 43_index_memory.md "Fx33": in bounds, the three digits of `V[x]` at the address the meaning computes and the two after it; every other
byte is untouched. -/
def Obligations.BcdStoresThreeDigits : Prop :=
  ∀ (x : RegNum) (s : State), s.i.toNat ≤ 4093 → ∃ t, exec (.ldB x) s = .next t ∧
    (t.readByte (s.dataAddr 0)).toNat = (s.getReg x).toNat / 100 ∧
    (t.readByte (s.dataAddr 1)).toNat = (s.getReg x).toNat / 10 % 10 ∧
    (t.readByte (s.dataAddr 2)).toNat = (s.getReg x).toNat % 10 ∧
    t.pc = s.pc + 2 ∧
    Frame (fun p => p = .pc ∨ ∃ a, p = .byte a ∧ s.dataAddr 0 ≤ a ∧ a < s.dataAddr 3) s t

/-- 43_index_memory.md "Fx55": in bounds, `V[0..x]` at the address the meaning computes and upward; every other byte is untouched and
`I` is not moved. -/
def Obligations.BlockStoreWritesRegisters : Prop :=
  ∀ (x : RegNum) (s : State), s.i.toNat + x.toNat ≤ 4095 → ∃ t, exec (.storeRegs x) s = .next t ∧
    (∀ r : RegNum, r.toNat ≤ x.toNat → t.readByte (s.dataAddr r.toNat) = s.getReg r) ∧
    t.pc = s.pc + 2 ∧
    Frame (fun p => p = .pc ∨ ∃ a, p = .byte a ∧ s.dataAddr 0 ≤ a ∧ a < s.dataAddr (regCount x)) s t

/-- 43_index_memory.md "Fx65": in bounds, memory at `I` upward into `V[0..x]`, `VF` included only when `x = 0xF`; memory, `I` and the registers
above `x` are untouched. -/
def Obligations.BlockLoadReadsRegisters : Prop :=
  ∀ (x : RegNum) (s : State), s.i.toNat + x.toNat ≤ 4095 → ∃ t, exec (.loadRegs x) s = .next t ∧
    (∀ r : RegNum, r.toNat ≤ x.toNat → t.getReg r = s.readByte (s.dataAddr r.toNat)) ∧
    t.pc = s.pc + 2 ∧
    Frame (fun p => p = .pc ∨ ∃ r, p = .reg r ∧ r.toNat ≤ x.toNat) s t

/-- A store of `V[0..x]` and a load with the same `I` and memory, into any register file, give back exactly the registers stored
(43_index_memory.md R97, which the spec marks as derived). -/
def Obligations.StoreThenLoadRestores : Prop :=
  ∀ (x : RegNum) (s t u v : State), s.i.toNat + x.toNat ≤ 4095 → exec (.storeRegs x) s = .next t →
    u.mem = t.mem → u.i = t.i → exec (.loadRegs x) u = .next v →
    ∀ r : RegNum, r.toNat ≤ x.toNat → v.getReg r = s.getReg r

/-- A store is seen by the very next fetch: where two stored registers lie at `pc`, the word fetched is those two bytes, high byte first
(20_memory.md section 4 and R35; the spec marks the coherence as derived). -/
def Obligations.StoreIsSeenByNextFetch : Prop :=
  ∀ (x r : RegNum) (s t u : State), s.i.toNat + x.toNat ≤ 4095 → exec (.storeRegs x) s = .next t →
    u.mem = t.mem → r.toNat + 1 ≤ x.toNat → u.pc.toNat = s.dataAddr r.toNat →
    u.fetchWord.toNat = (s.getReg r).toNat * 256 + (s.getReg (r + 1)).toNat

/-- An access of at least one byte that reaches above 4095 writes the fault latch only, with the lowest such address, for all four
instructions that access memory, and in DRW before the display is looked at (20_memory.md section 2, 60_exceptions.md section 2;
decisions D7 and D20, log 12). -/
def Obligations.MemoryBoundsTakeFault : Prop :=
  ∀ (x y : RegNum) (n : BitVec 4) (s : State),
    (4095 < s.i.toNat + 2 →
      exec (.ldB x) s = .next { s with halted := true, faultCause := 5, faultInfo := BitVec.ofNat 16 (max s.i.toNat 4096) }) ∧
    (4095 < s.i.toNat + x.toNat →
      exec (.storeRegs x) s = .next { s with halted := true, faultCause := 5, faultInfo := BitVec.ofNat 16 (max s.i.toNat 4096) } ∧
      exec (.loadRegs x) s = .next { s with halted := true, faultCause := 5, faultInfo := BitVec.ofNat 16 (max s.i.toNat 4096) }) ∧
    (0 < n.toNat → 4095 < s.i.toNat + (n.toNat - 1) →
      exec (.drw x y n) s = .next { s with halted := true, faultCause := 5, faultInfo := BitVec.ofNat 16 (max s.i.toNat 4096) })

/-- Main memory reads back what was written, at that address only, and every write inside the 4096 bytes keeps the canonical form
(20_memory.md section 4: R46, R49; the form is log 10). -/
def Obligations.MemoryReadAfterWrite : Prop :=
  ∀ (m : Memory) (a : Nat) (b : Byte),
    (m.write a b).read a = b ∧ (∀ c, c ≠ a → (m.write a b).read c = m.read c) ∧ (a < 4096 → m.wf → (m.write a b).wf)

/-! Display. -/

/-- R99: CLS, the word 0x00E0, turns every cell off, sets `render`, and writes nothing else. -/
def Obligations.ClearTurnsEveryCellOff : Prop :=
  ∀ s : State, decodeWord 0x00E0 = some .cls ∧
    ∃ t, exec .cls s = .next t ∧ (∀ k, k < 2048 → t.cell k = false) ∧ t.render = true ∧ t.pc = s.pc + 2 ∧
    Frame (fun p => p = .pc ∨ p = .render ∨ ∃ k, p = .cell k) s t

/-- 44_display.md "Dxyn" and R101: with the sprite in memory and every set bit on the display, exactly the targets are toggled, `VF` says
whether one of them was on before, and `render` is set; with `n = 0` nothing is drawn and `VF` is 0 (the bit order is decision D3,
the row spill D8, the operand order D21; logs 13, 16, 15). -/
def Obligations.DrawTogglesTargets : Prop :=
  ∀ (x y : RegNum) (n : BitVec 4) (s : State),
    (n.toNat = 0 ∨ s.i.toNat + (n.toNat - 1) ≤ 4095) → (∀ k, s.spriteTarget x y n k → k ≤ 2047) →
    ∃ t, exec (.drw x y n) s = .next t ∧
      (∀ k, k < 2048 → (s.spriteTarget x y n k → t.cell k = !s.cell k) ∧ (¬ s.spriteTarget x y n k → t.cell k = s.cell k)) ∧
      (t.vf = 1 ∨ t.vf = 0) ∧ (t.vf = 1 ↔ ∃ k, s.spriteTarget x y n k ∧ s.cell k = true) ∧
      t.render = true ∧ t.pc = s.pc + 2 ∧
      Frame (fun p => p = .pc ∨ p = .reg flagReg ∨ p = .render ∨ ∃ k, p = .cell k ∧ s.spriteTarget x y n k) s t

/-- Drawing the same sprite at the same place twice gives the display back: "Every target cell is toggled" (44_display.md R101; what a
second draw does is inferred). -/
def Obligations.DrawTwiceRestoresDisplay : Prop :=
  ∀ (x y : RegNum) (n : BitVec 4) (s t u : State), s.halted = false → x ≠ flagReg → y ≠ flagReg →
    exec (.drw x y n) s = .next t → t.halted = false → exec (.drw x y n) t = .next u → u.disp = s.disp ∧ u.halted = false

/-- 44_display.md "Dxyn": the first set bit, rows then bits ascending, whose flat index is above 2047 faults with that index, and nothing
but the latch is written (decisions D8 and D20, logs 16 and 12; which set bit comes first, and at which index, rests on the bit order,
decision D3, log 13). -/
def Obligations.DisplayBoundsTakeFault : Prop :=
  ∀ (x y : RegNum) (n : BitVec 4) (s : State) (row bit : Nat),
    s.i.toNat + (n.toNat - 1) ≤ 4095 → row < n.toNat → bit < 8 → s.spriteBit row bit = true →
    2047 < s.spriteIndex x y row bit →
    (∀ row' bit', bit' < 8 → (row' < row ∨ row' = row ∧ bit' < bit) → s.spriteBit row' bit' = true →
      s.spriteIndex x y row' bit' ≤ 2047) →
    exec (.drw x y n) s =
      .next { s with halted := true, faultCause := 6, faultInfo := BitVec.ofNat 16 (s.spriteIndex x y row bit) }

/-! Keys and timers. -/

/-- 45_keys_timers.md "Ex9E" and "ExA1": for a key code, the skips on the level of that key. -/
def Obligations.KeySkipsTestTheLevel : Prop :=
  ∀ (x : RegNum) (s : State), (s.getReg x).toNat ≤ 15 →
    (∃ t, exec (.skp x) s = .next t ∧
      t.pc = s.pc + (if s.keyDown (s.getReg x).toNat then 4 else 2) ∧ Frame (fun p => p = .pc) s t) ∧
    (∃ t, exec (.sknp x) s = .next t ∧
      t.pc = s.pc + (if s.keyDown (s.getReg x).toNat then 2 else 4) ∧ Frame (fun p => p = .pc) s t)

/-- A key code above 15 faults with the whole byte as information (45_keys_timers.md R103; decision D5, log 12). -/
def Obligations.KeyRangeTakesFault : Prop :=
  ∀ (x : RegNum) (s : State), 15 < (s.getReg x).toNat →
    exec (.skp x) s = .next { s with halted := true, faultCause := 7, faultInfo := (s.getReg x).zeroExtend 16 } ∧
    exec (.sknp x) s = .next { s with halted := true, faultCause := 7, faultInfo := (s.getReg x).zeroExtend 16 }

/-- 45_keys_timers.md "Fx0A": some key down: `V[x]` gets the code of a key that is down; none down: nothing changes
(which key is free, decision D4, log 3). -/
def Obligations.KeyWaitTakesAPressedKey : Prop :=
  ∀ (x : RegNum) (s : State),
    ((∃ k, k < 16 ∧ s.keyDown k = true) → ∃ t, exec (.ldVxK x) s = .next t ∧
      (t.getReg x).toNat < 16 ∧ s.keyDown (t.getReg x).toNat = true ∧ t.pc = s.pc + 2 ∧
      Frame (fun p => p = .pc ∨ p = .reg x ∨ p = .draws) s t) ∧
    ((∀ k, k < 16 → s.keyDown k = false) → exec (.ldVxK x) s = .next s)

/-- R107: reading the delay timer, which the read leaves as it is; and the word that encodes it. -/
def Obligations.ReadDelayTimer : Prop :=
  ∀ (x : RegNum) (s : State), decodeWord (0xF#4 ++ x ++ 0x07#8) = some (.ldVxDt x) ∧
    ∃ t, exec (.ldVxDt x) s = .next t ∧ t.getReg x = s.dt ∧ t.pc = s.pc + 2 ∧ Frame (fun p => p = .pc ∨ p = .reg x) s t

/-- R108: setting the delay timer, the word that encodes it, and that no other step of the machine, whichever move it is, makes
the delay timer go up. -/
def Obligations.SetDelayTimer : Prop :=
  (∀ (x : RegNum) (s : State), decodeWord (0xF#4 ++ x ++ 0x15#8) = some (.ldDtVx x) ∧
    ∃ t, exec (.ldDtVx x) s = .next t ∧ t.dt = s.getReg x ∧ t.pc = s.pc + 2 ∧ Frame (fun p => p = .pc ∨ p = .dt) s t) ∧
  ∀ s t : State, step s = .next t → s.dt.toNat < t.dt.toNat →
    s.nextMove = .execute ∧ ∃ x, decodeWord s.fetchWord = some (.ldDtVx x)

/-- 45_keys_timers.md "Fx18": setting the sound timer, the word that encodes it; the output changes only at the next Tick step, so setting 1 is
never heard (that the output holds its level between ticks is decision D17, log 8); and no instruction reads the sound timer: with another
value in it, every instruction does the same to all the rest. -/
def Obligations.SetSoundTimer : Prop :=
  (∀ (x : RegNum) (s : State), decodeWord (0xF#4 ++ x ++ 0x18#8) = some (.ldStVx x) ∧
    ∃ t, exec (.ldStVx x) s = .next t ∧ t.st = s.getReg x ∧ t.soundActive = s.soundActive ∧ t.pc = s.pc + 2 ∧
      Frame (fun p => p = .pc ∨ p = .st) s t ∧
      (s.halted = false → t.nextMove = .tick → ∃ u, step t = .next u ∧ (u.soundActive = true ↔ 1 < (s.getReg x).toNat))) ∧
  ∀ (i : Instr) (s t : State) (a : Byte), exec i s = .next t →
    ∃ u, exec i { s with st := a } = .next u ∧ { u with st := 0 } = { t with st := 0 }

/-- 60_exceptions.md section 3: a Tick step counts each timer down by one and stops at 0, reports whether `ST` is then nonzero, and
touches nothing else but the model's schedule. -/
def Obligations.TickCountsDown : Prop :=
  ∀ s : State, s.nextMove = .tick → s.halted = false → ∃ t, step s = .next t ∧
    t.dt.toNat = s.dt.toNat - 1 ∧ t.st.toNat = s.st.toNat - 1 ∧ (t.soundActive = true ↔ t.st ≠ 0) ∧
    t.agenda = s.agenda.tail ∧
    Frame (fun p => p = .dt ∨ p = .st ∨ p = .soundActive ∨ p = .agenda) s t

/-- After `n` Tick steps in a row a timer that held `v` reads `max(v − n, 0)` (60_exceptions.md R125, which the spec marks as derived). -/
def Obligations.TicksReachZeroAndStay : Prop :=
  ∀ (n : Nat) (s : State) (rest : List Move), s.halted = false → s.agenda = List.replicate n .tick ++ rest →
    ∃ t, Host.Core.run core n s = .next t ∧
      t.dt.toNat = s.dt.toNat - n ∧ t.st.toNat = s.st.toNat - n ∧ t.agenda = rest ∧ t.pc = s.pc ∧
      (0 < n → (t.soundActive = true ↔ n < s.st.toNat))

/-! Host moves and reset. -/

/-- 60_exceptions.md section 4: SetKey changes the level of one key and AckRender clears `render`, halted or not, and nothing else
but the model's schedule. -/
def Obligations.KeyAndRenderMoves : Prop :=
  ∀ (k : BitVec 4) (down : Bool) (s : State),
    (s.nextMove = .setKey k down → ∃ t, step s = .next t ∧ t.keyDown k.toNat = down ∧
      (∀ j, j ≠ k.toNat → t.keyDown j = s.keyDown j) ∧ Frame (fun p => p = .keys ∨ p = .agenda) s t) ∧
    (s.nextMove = .ackRender → ∃ t, step s = .next t ∧ t.render = false ∧ Frame (fun p => p = .render ∨ p = .agenda) s t)

/-- 60_exceptions.md R129 and 70_reset_and_hazards.md R136: before the first Execute step a program of at most 3584 bytes is placed at
0x200 upward and nothing else is written; otherwise the move is refused (the refusals are the model's, log 11). -/
def Obligations.LoadProgramPlacesBytes : Prop :=
  ∀ (bytes : List Byte) (s : State), s.nextMove = .loadProgram bytes →
    (s.started = false → bytes.length ≤ 3584 → ∃ t, step s = .next t ∧
      (∀ j b, bytes[j]? = some b → t.readByte (0x200 + j) = b) ∧
      Frame (fun p => p = .agenda ∨ ∃ a, p = .byte a ∧ 0x200 ≤ a ∧ a < 0x200 + bytes.length) s t) ∧
    (s.started = true → step s = .refused .loadAfterStart) ∧
    (s.started = false → 3584 < bytes.length → step s = .refused .romTooLarge)

/-- 10_state.md section 8: every piece of state after a Reset move, from any state, halted or not; the keys stay the host's
(zeroing `I`, `sp`, the timers and `render` is decision D10, the output D17, the latch D18, re-applying reset D29; logs 8 and 19). -/
def Obligations.ResetMoveEstablishesResetState : Prop :=
  ∀ s : State, s.nextMove = .reset → ∃ t, step s = .next t ∧
    t.pc = 0x200 ∧ (∀ r, t.getReg r = 0) ∧ t.i = 0 ∧ (∀ k, t.stackEntry k = 0) ∧ t.sp = 0 ∧
    (∀ j : Fin 80, t.readByte (Config.fontBase.val + j.val) = Config.fontData j) ∧
    (∀ a, a < Config.fontBase.val ∨ Config.fontBase.val + 80 ≤ a → t.readByte a = 0) ∧
    (∀ k, t.cell k = false) ∧ t.dt = 0 ∧ t.st = 0 ∧ t.render = false ∧ t.soundActive = false ∧
    t.halted = false ∧ t.faultCause = 0 ∧ t.faultInfo = 0 ∧ t.started = false ∧ t.agenda = s.agenda.tail ∧
    Frame (fun p => p ≠ .keys ∧ p ≠ .draws) s t

/-- The same values hold in the state the machine starts in (10_state.md section 8; decisions D10, D17, D18, log 8). -/
def Obligations.ResetStateValues : Prop :=
  State.reset.pc = 0x200 ∧ (∀ r, State.reset.getReg r = 0) ∧ State.reset.i = 0 ∧ (∀ k, State.reset.stackEntry k = 0) ∧
  State.reset.sp = 0 ∧ (∀ j : Fin 80, State.reset.readByte (Config.fontBase.val + j.val) = Config.fontData j) ∧
  (∀ a, a < Config.fontBase.val ∨ Config.fontBase.val + 80 ≤ a → State.reset.readByte a = 0) ∧
  (∀ k, State.reset.cell k = false) ∧ State.reset.dt = 0 ∧ State.reset.st = 0 ∧ State.reset.render = false ∧
  State.reset.soundActive = false ∧ State.reset.halted = false ∧ State.reset.faultCause = 0 ∧ State.reset.faultInfo = 0

/-! The invariant. -/

/-- The invariant holds after reset (10_state.md sections 3 and 8; the canonical memory is the model's form, log 10; the empty stack and the
zero latch are decisions D10 and D18, log 8). -/
def Obligations.ResetSatisfiesInvariant : Prop := State.reset.Inv

/-- Every step, whichever move it is, keeps the invariant: memory canonical, `pc ≤ 0x10FE`, entries in use fetchable, the latch
consistent (10_state.md R17 and 40_flow.md R65, where the spec marks the bounds as derived; C1; the memory form is log 10). -/
def Obligations.StepKeepsInvariant : Prop :=
  ∀ s t : State, s.Inv → step s = .next t → t.Inv

/-- So it holds of every state a run reaches from a state that has it, under every schedule (10_state.md sections 1 and 3; the spec marks the
bounds on `pc` and the entries as derived; the memory form is log 10, the schedule log 1). -/
def Obligations.RunKeepsInvariant : Prop :=
  ∀ (n : Nat) (s t : State), s.Inv → Host.Core.run core n s = .next t → t.Inv
end

