-- ==== Sys2Proof/Laws/Encoding.lean ====
section
/-! SUPPORT. The fields of the four formats of 30_encoding.md R52, both ways: the fields of a word put together, and a word put together
from its fields. -/

namespace Sys2Proof.Laws.Encoding

open Sys2Proof

/-! The bits of a word put together. -/

theorem bit_nnn (g : BitVec 4) (nnn : BitVec 12) (k : Nat) :
    (g ++ nnn : Word).getLsbD k = if k < 12 then nnn.getLsbD k else g.getLsbD (k - 12) := by
  rw [BitVec.getLsbD_append]

theorem bit_xkk (g x : BitVec 4) (kk : BitVec 8) (k : Nat) :
    (g ++ x ++ kk : Word).getLsbD k =
      if k < 8 then kk.getLsbD k else if k < 12 then x.getLsbD (k - 8) else g.getLsbD (k - 12) := by
  rw [BitVec.getLsbD_append, BitVec.getLsbD_append]
  by_cases h : k < 8
  · simp only [h, if_true]
  · have h1 : (k - 8 < 4) ↔ k < 12 := by omega
    simp only [h, if_false, h1, Nat.sub_sub]

theorem bit_xyn (g x y n : BitVec 4) (k : Nat) :
    (g ++ x ++ y ++ n : Word).getLsbD k =
      if k < 4 then n.getLsbD k else if k < 8 then y.getLsbD (k - 4)
      else if k < 12 then x.getLsbD (k - 8) else g.getLsbD (k - 12) := by
  rw [BitVec.getLsbD_append, BitVec.getLsbD_append, BitVec.getLsbD_append]
  by_cases h : k < 4
  · simp only [h, if_true]
  · have h1 : (k - 4 < 4) ↔ k < 8 := by omega
    have h2 : (k - (4 + 4) < 4) ↔ k < 12 := by omega
    simp only [h, if_false, h1, Nat.sub_sub, h2]

theorem bit_bytes (hi lo : Byte) (k : Nat) :
    (hi ++ lo : Word).getLsbD k = if k < 8 then lo.getLsbD k else hi.getLsbD (k - 8) := by
  rw [BitVec.getLsbD_append]

/-! Format NNN. -/

theorem fieldGrp_nnn (g : BitVec 4) (nnn : BitVec 12) : fieldGrp (g ++ nnn) = g := BitVec.extractLsb'_append_eq_left

theorem fieldNnn_nnn (g : BitVec 4) (nnn : BitVec 12) : fieldNnn (g ++ nnn) = nnn := BitVec.extractLsb'_append_eq_right

theorem nnn_of_fields (w : Word) : fieldGrp w ++ fieldNnn w = w := by
  refine BitVec.eq_of_getLsbD_eq fun k hk => ?_
  rw [bit_nnn]
  simp only [fieldGrp, fieldNnn, BitVec.getLsbD_extractLsb']
  interval_cases k <;> simp

/-! Format XKK (and XSS, whose selector stands in the place of `kk`). -/

theorem fieldGrp_xkk (g x : BitVec 4) (kk : BitVec 8) : fieldGrp (g ++ x ++ kk) = g := by
  refine BitVec.eq_of_getLsbD_eq fun k hk => ?_
  rw [fieldGrp, BitVec.getLsbD_extractLsb', bit_xkk]
  interval_cases k <;> simp

theorem fieldX_xkk (g x : BitVec 4) (kk : BitVec 8) : fieldX (g ++ x ++ kk) = x := by
  refine BitVec.eq_of_getLsbD_eq fun k hk => ?_
  rw [fieldX, BitVec.getLsbD_extractLsb', bit_xkk]
  interval_cases k <;> simp

theorem fieldKk_xkk (g x : BitVec 4) (kk : BitVec 8) : fieldKk (g ++ x ++ kk) = kk := BitVec.extractLsb'_append_eq_right

theorem xkk_of_fields (w : Word) : fieldGrp w ++ fieldX w ++ fieldKk w = w := by
  refine BitVec.eq_of_getLsbD_eq fun k hk => ?_
  rw [bit_xkk]
  simp only [fieldGrp, fieldX, fieldKk, BitVec.getLsbD_extractLsb']
  interval_cases k <;> simp

/-! Formats XYS and XYN. -/

theorem fieldGrp_xyn (g x y n : BitVec 4) : fieldGrp (g ++ x ++ y ++ n) = g := by
  refine BitVec.eq_of_getLsbD_eq fun k hk => ?_
  rw [fieldGrp, BitVec.getLsbD_extractLsb', bit_xyn]
  interval_cases k <;> simp

theorem fieldX_xyn (g x y n : BitVec 4) : fieldX (g ++ x ++ y ++ n) = x := by
  refine BitVec.eq_of_getLsbD_eq fun k hk => ?_
  rw [fieldX, BitVec.getLsbD_extractLsb', bit_xyn]
  interval_cases k <;> simp

theorem fieldY_xyn (g x y n : BitVec 4) : fieldY (g ++ x ++ y ++ n) = y := by
  refine BitVec.eq_of_getLsbD_eq fun k hk => ?_
  rw [fieldY, BitVec.getLsbD_extractLsb', bit_xyn]
  interval_cases k <;> simp

theorem fieldN_xyn (g x y n : BitVec 4) : fieldN (g ++ x ++ y ++ n) = n := BitVec.extractLsb'_append_eq_right

theorem xyn_of_fields (w : Word) : fieldGrp w ++ fieldX w ++ fieldY w ++ fieldN w = w := by
  refine BitVec.eq_of_getLsbD_eq fun k hk => ?_
  rw [bit_xyn]
  simp only [fieldGrp, fieldX, fieldY, fieldN, BitVec.getLsbD_extractLsb']
  interval_cases k <;> simp

/-! Bytes. -/

/-- The two bytes of a word give it back. -/
theorem wordOfBytes_of_bytes (w : Word) : wordOfBytes (w.extractLsb' 8 8) (w.extractLsb' 0 8) = w := by
  refine BitVec.eq_of_getLsbD_eq fun k hk => ?_
  rw [wordOfBytes, bit_bytes]
  simp only [BitVec.getLsbD_extractLsb']
  interval_cases k <;> simp

/-- The word of two bytes as a number: high byte first. -/
theorem wordOfBytes_toNat (hi lo : Byte) : (wordOfBytes hi lo).toNat = hi.toNat * 256 + lo.toNat := by
  rw [wordOfBytes, BitVec.toNat_append, Nat.mul_comm, Nat.shiftLeft_eq, Nat.mul_comm hi.toNat]
  exact (Nat.two_pow_add_eq_or_of_lt lo.isLt hi.toNat).symm

end Sys2Proof.Laws.Encoding
end

