-- ==== Sys2Proof/Laws/Memory.lean ====
section
/-! SUPPORT. The laws of main memory: a read after a write, and that every operation keeps the canonical form. -/

namespace Sys2Proof.Laws.Memory

open Sys2Proof Sys2Proof.Machine

theorem lookup_erase (m : Memory) (a c : Nat) :
    (m.erase a).lookup c = if c = a then none else m.lookup c := by
  induction m with
  | nil => simp [Memory.erase, Memory.lookup]
  | cons e rest ih =>
    obtain ⟨k, b⟩ := e
    by_cases hk : k = a
    · subst hk
      by_cases hc : c = k
      · subst hc; simpa [Memory.erase] using ih
      · simp [Memory.erase, Memory.lookup, ih, hc, Ne.symm hc]
    · by_cases hc : k = c
      · subst hc; simp [Memory.erase, Memory.lookup, hk]
      · simp [Memory.erase, Memory.lookup, ih, hk, hc]

theorem lookup_insert_other (m : Memory) {a c : Nat} (b : Byte) (h : c ≠ a) :
    (m.insert a b).lookup c = m.lookup c := by
  induction m with
  | nil => simp [Memory.insert, Memory.lookup, Ne.symm h]
  | cons e rest ih =>
    obtain ⟨k, d⟩ := e
    by_cases hk : a < k
    · simp [Memory.insert, Memory.lookup, hk, Ne.symm h]
    · simp [Memory.insert, Memory.lookup, hk, ih]

theorem lookup_insert_same (m : Memory) (a : Nat) (b : Byte) (h : m.lookup a = none) :
    (m.insert a b).lookup a = some b := by
  induction m with
  | nil => simp [Memory.insert, Memory.lookup]
  | cons e rest ih =>
    obtain ⟨k, d⟩ := e
    by_cases hk : a < k
    · simp [Memory.insert, Memory.lookup, hk]
    · have hne : k ≠ a := by rintro rfl; simp [Memory.lookup] at h
      simp only [Memory.lookup, hne, if_false] at h
      simp [Memory.insert, Memory.lookup, hk, hne, ih h]

/-- What a read finds after a write, at every address. -/
theorem read_after_write (m : Memory) (a c : Nat) (b : Byte) :
    (m.write a b).read c = if c = a then b else m.read c := by
  unfold Memory.write Memory.read
  by_cases hb : b = Memory.resetByte a
  · by_cases hc : c = a
    · simp [hb, hc, lookup_erase]
    · simp [hb, hc, lookup_erase]
  · by_cases hc : c = a
    · subst hc; simp [hb, lookup_insert_same _ _ b (by simp [lookup_erase] : (m.erase c).lookup c = none)]
    · simp [hb, hc, lookup_insert_other _ b hc, lookup_erase]

theorem mem_erase {m : Memory} {a : Nat} {e : Host.Cell} (h : e ∈ m.erase a) : e ∈ m ∧ e.1 ≠ a := by
  induction m with
  | nil => simp [Memory.erase] at h
  | cons x rest ih =>
    obtain ⟨k, b⟩ := x
    by_cases hk : k = a
    · simp only [Memory.erase, hk, if_true] at h
      exact ⟨List.mem_cons_of_mem _ (ih h).1, (ih h).2⟩
    · simp only [Memory.erase, hk, if_false, List.mem_cons] at h
      rcases h with rfl | h
      · exact ⟨List.mem_cons_self, hk⟩
      · exact ⟨List.mem_cons_of_mem _ (ih h).1, (ih h).2⟩

theorem mem_insert {m : Memory} {a : Nat} {b : Byte} {e : Host.Cell} (h : e ∈ m.insert a b) : e = (a, b) ∨ e ∈ m := by
  induction m with
  | nil => simpa [Memory.insert] using h
  | cons x rest ih =>
    obtain ⟨k, c⟩ := x
    by_cases hk : a < k
    · simpa [Memory.insert, hk] using h
    · simp only [Memory.insert, hk, if_false, List.mem_cons] at h
      rcases h with rfl | h
      · exact .inr List.mem_cons_self
      · exact (ih h).imp_right (List.mem_cons_of_mem _)

theorem pairwise_erase {m : Memory} (a : Nat) (h : m.Pairwise (fun c d => c.1 < d.1)) :
    (m.erase a).Pairwise (fun c d => c.1 < d.1) := by
  induction m with
  | nil => simp [Memory.erase]
  | cons x rest ih =>
    obtain ⟨k, b⟩ := x
    rw [List.pairwise_cons] at h
    by_cases hk : k = a
    · simpa [Memory.erase, hk] using ih h.2
    · simp only [Memory.erase, hk, if_false, List.pairwise_cons]
      exact ⟨fun e he => h.1 e (mem_erase he).1, ih h.2⟩

theorem pairwise_insert {m : Memory} {a : Nat} (b : Byte) (h : m.Pairwise (fun c d => c.1 < d.1)) (ha : ∀ e ∈ m, e.1 ≠ a) :
    (m.insert a b).Pairwise (fun c d => c.1 < d.1) := by
  induction m with
  | nil => simp [Memory.insert]
  | cons x rest ih =>
    obtain ⟨k, c⟩ := x
    have hrest := List.pairwise_cons.1 h
    by_cases hk : a < k
    · simp only [Memory.insert, hk, if_true, List.pairwise_cons]
      refine ⟨fun e he => ?_, hrest⟩
      rcases List.mem_cons.1 he with rfl | he
      · exact hk
      · exact lt_trans hk (hrest.1 e he)
    · simp only [Memory.insert, hk, if_false, List.pairwise_cons]
      refine ⟨fun e he => ?_, ih hrest.2 fun e he => ha e (List.mem_cons_of_mem _ he)⟩
      rcases mem_insert he with rfl | he
      · exact lt_of_le_of_ne (Nat.not_lt.1 hk) (ha (k, c) List.mem_cons_self)
      · exact hrest.1 e he

/-- A write inside the 4096 bytes keeps the canonical form. -/
theorem wf_write {m : Memory} {a : Nat} {b : Byte} (h : m.wf) (ha : a < 4096) : (m.write a b).wf := by
  unfold Memory.write
  by_cases hb : b = Memory.resetByte a
  · simp only [hb, if_true]
    exact ⟨pairwise_erase a h.1, fun e he => h.2 e (mem_erase he).1⟩
  · simp only [hb, if_false]
    refine ⟨pairwise_insert b (pairwise_erase a h.1) fun e he => (mem_erase he).2, fun e he => ?_⟩
    rcases mem_insert he with rfl | he
    · exact ⟨ha, hb⟩
    · exact h.2 e (mem_erase he).1

/-- Reset memory is canonical. -/
theorem wf_reset : State.reset.mem.wf := by decide

end Sys2Proof.Laws.Memory
end

