-- ==== Sys2Proof/Laws/Reads.lean ====
section
/-! SUPPORT. The reads of registers, memory, display, stack and keys through every update that does not write them, each true by unfolding. -/

namespace Sys2Proof.Laws.Reads

open Sys2Proof Sys2Proof.Machine

@[simp] theorem getReg_setPc (s : State) (a : Word) (q : RegNum) : (s.setPc a).getReg q = s.getReg q := rfl
@[simp] theorem getReg_setI (s : State) (a : Word) (q : RegNum) : (s.setI a).getReg q = s.getReg q := rfl
@[simp] theorem getReg_setStack (s : State) (a : Vector Word 16) (q : RegNum) : (s.setStack a).getReg q = s.getReg q := rfl
@[simp] theorem getReg_setSp (s : State) (a : Fin 17) (q : RegNum) : (s.setSp a).getReg q = s.getReg q := rfl
@[simp] theorem getReg_setMem (s : State) (a : Memory) (q : RegNum) : (s.setMem a).getReg q = s.getReg q := rfl
@[simp] theorem getReg_setDisp (s : State) (a : BitVec 2048) (q : RegNum) : (s.setDisp a).getReg q = s.getReg q := rfl
@[simp] theorem getReg_setRender (s : State) (a : Bool) (q : RegNum) : (s.setRender a).getReg q = s.getReg q := rfl
@[simp] theorem getReg_setDt (s : State) (a : Byte) (q : RegNum) : (s.setDt a).getReg q = s.getReg q := rfl
@[simp] theorem getReg_setSt (s : State) (a : Byte) (q : RegNum) : (s.setSt a).getReg q = s.getReg q := rfl
@[simp] theorem getReg_setOp (s : State) (a : Word) (q : RegNum) : (s.setOp a).getReg q = s.getReg q := rfl
@[simp] theorem getReg_setSoundActive (s : State) (a : Bool) (q : RegNum) : (s.setSoundActive a).getReg q = s.getReg q := rfl
@[simp] theorem getReg_setKeys (s : State) (a : BitVec 16) (q : RegNum) : (s.setKeys a).getReg q = s.getReg q := rfl
@[simp] theorem getReg_setAgenda (s : State) (a : List Move) (q : RegNum) : (s.setAgenda a).getReg q = s.getReg q := rfl
@[simp] theorem getReg_setDraws (s : State) (a : Nat) (q : RegNum) : (s.setDraws a).getReg q = s.getReg q := rfl
@[simp] theorem getReg_setStarted (s : State) (a : Bool) (q : RegNum) : (s.setStarted a).getReg q = s.getReg q := rfl
@[simp] theorem getReg_raise (s : State) (f : Trap) (info : Word) (q : RegNum) : (s.raise f info).getReg q = s.getReg q := rfl
@[simp] theorem getReg_advance (s : State) (q : RegNum) : s.advance.getReg q = s.getReg q := rfl
@[simp] theorem getReg_skipIf (s : State) (c : Bool) (q : RegNum) : (s.skipIf c).getReg q = s.getReg q := rfl
@[simp] theorem getReg_nextDraw (s : State) (q : RegNum) : s.nextDraw.getReg q = s.getReg q := rfl
@[simp] theorem getReg_tick (s : State) (q : RegNum) : s.tick.getReg q = s.getReg q := rfl
@[simp] theorem getReg_writeByte (s : State) (a : Nat) (b : Byte) (q : RegNum) : (s.writeByte a b).getReg q = s.getReg q := rfl

@[simp] theorem readByte_setV (s : State) (a : Vector Byte 16) (c : Nat) : (s.setV a).readByte c = s.readByte c := rfl
@[simp] theorem readByte_setPc (s : State) (a : Word) (c : Nat) : (s.setPc a).readByte c = s.readByte c := rfl
@[simp] theorem readByte_setI (s : State) (a : Word) (c : Nat) : (s.setI a).readByte c = s.readByte c := rfl
@[simp] theorem readByte_setStack (s : State) (a : Vector Word 16) (c : Nat) : (s.setStack a).readByte c = s.readByte c := rfl
@[simp] theorem readByte_setSp (s : State) (a : Fin 17) (c : Nat) : (s.setSp a).readByte c = s.readByte c := rfl
@[simp] theorem readByte_setDisp (s : State) (a : BitVec 2048) (c : Nat) : (s.setDisp a).readByte c = s.readByte c := rfl
@[simp] theorem readByte_setRender (s : State) (a : Bool) (c : Nat) : (s.setRender a).readByte c = s.readByte c := rfl
@[simp] theorem readByte_setDt (s : State) (a : Byte) (c : Nat) : (s.setDt a).readByte c = s.readByte c := rfl
@[simp] theorem readByte_setSt (s : State) (a : Byte) (c : Nat) : (s.setSt a).readByte c = s.readByte c := rfl
@[simp] theorem readByte_setOp (s : State) (a : Word) (c : Nat) : (s.setOp a).readByte c = s.readByte c := rfl
@[simp] theorem readByte_setSoundActive (s : State) (a : Bool) (c : Nat) : (s.setSoundActive a).readByte c = s.readByte c := rfl
@[simp] theorem readByte_setKeys (s : State) (a : BitVec 16) (c : Nat) : (s.setKeys a).readByte c = s.readByte c := rfl
@[simp] theorem readByte_setAgenda (s : State) (a : List Move) (c : Nat) : (s.setAgenda a).readByte c = s.readByte c := rfl
@[simp] theorem readByte_setDraws (s : State) (a : Nat) (c : Nat) : (s.setDraws a).readByte c = s.readByte c := rfl
@[simp] theorem readByte_setStarted (s : State) (a : Bool) (c : Nat) : (s.setStarted a).readByte c = s.readByte c := rfl
@[simp] theorem readByte_raise (s : State) (f : Trap) (info : Word) (c : Nat) : (s.raise f info).readByte c = s.readByte c := rfl
@[simp] theorem readByte_advance (s : State) (c : Nat) : s.advance.readByte c = s.readByte c := rfl
@[simp] theorem readByte_skipIf (s : State) (c : Bool) (q : Nat) : (s.skipIf c).readByte q = s.readByte q := rfl
@[simp] theorem readByte_nextDraw (s : State) (c : Nat) : s.nextDraw.readByte c = s.readByte c := rfl
@[simp] theorem readByte_tick (s : State) (c : Nat) : s.tick.readByte c = s.readByte c := rfl
@[simp] theorem readByte_setReg (s : State) (r : RegNum) (b : Byte) (c : Nat) : (s.setReg r b).readByte c = s.readByte c := rfl
@[simp] theorem readByte_setFlag (s : State) (f : Byte) (c : Nat) : (s.setFlag f).readByte c = s.readByte c := rfl

@[simp] theorem cell_setV (s : State) (a : Vector Byte 16) (k : Nat) : (s.setV a).cell k = s.cell k := rfl
@[simp] theorem cell_setPc (s : State) (a : Word) (k : Nat) : (s.setPc a).cell k = s.cell k := rfl
@[simp] theorem cell_setI (s : State) (a : Word) (k : Nat) : (s.setI a).cell k = s.cell k := rfl
@[simp] theorem cell_setStack (s : State) (a : Vector Word 16) (k : Nat) : (s.setStack a).cell k = s.cell k := rfl
@[simp] theorem cell_setSp (s : State) (a : Fin 17) (k : Nat) : (s.setSp a).cell k = s.cell k := rfl
@[simp] theorem cell_setMem (s : State) (a : Memory) (k : Nat) : (s.setMem a).cell k = s.cell k := rfl
@[simp] theorem cell_setRender (s : State) (a : Bool) (k : Nat) : (s.setRender a).cell k = s.cell k := rfl
@[simp] theorem cell_setDt (s : State) (a : Byte) (k : Nat) : (s.setDt a).cell k = s.cell k := rfl
@[simp] theorem cell_setSt (s : State) (a : Byte) (k : Nat) : (s.setSt a).cell k = s.cell k := rfl
@[simp] theorem cell_setOp (s : State) (a : Word) (k : Nat) : (s.setOp a).cell k = s.cell k := rfl
@[simp] theorem cell_setSoundActive (s : State) (a : Bool) (k : Nat) : (s.setSoundActive a).cell k = s.cell k := rfl
@[simp] theorem cell_setKeys (s : State) (a : BitVec 16) (k : Nat) : (s.setKeys a).cell k = s.cell k := rfl
@[simp] theorem cell_setAgenda (s : State) (a : List Move) (k : Nat) : (s.setAgenda a).cell k = s.cell k := rfl
@[simp] theorem cell_setDraws (s : State) (a : Nat) (k : Nat) : (s.setDraws a).cell k = s.cell k := rfl
@[simp] theorem cell_setStarted (s : State) (a : Bool) (k : Nat) : (s.setStarted a).cell k = s.cell k := rfl
@[simp] theorem cell_raise (s : State) (f : Trap) (info : Word) (k : Nat) : (s.raise f info).cell k = s.cell k := rfl
@[simp] theorem cell_advance (s : State) (k : Nat) : s.advance.cell k = s.cell k := rfl
@[simp] theorem cell_skipIf (s : State) (c : Bool) (k : Nat) : (s.skipIf c).cell k = s.cell k := rfl
@[simp] theorem cell_nextDraw (s : State) (k : Nat) : s.nextDraw.cell k = s.cell k := rfl
@[simp] theorem cell_tick (s : State) (k : Nat) : s.tick.cell k = s.cell k := rfl
@[simp] theorem cell_writeByte (s : State) (a : Nat) (b : Byte) (k : Nat) : (s.writeByte a b).cell k = s.cell k := rfl
@[simp] theorem cell_setReg (s : State) (r : RegNum) (b : Byte) (k : Nat) : (s.setReg r b).cell k = s.cell k := rfl
@[simp] theorem cell_setFlag (s : State) (f : Byte) (k : Nat) : (s.setFlag f).cell k = s.cell k := rfl

@[simp] theorem stackEntry_setV (s : State) (a : Vector Byte 16) (k : Nat) : (s.setV a).stackEntry k = s.stackEntry k := rfl
@[simp] theorem stackEntry_setPc (s : State) (a : Word) (k : Nat) : (s.setPc a).stackEntry k = s.stackEntry k := rfl
@[simp] theorem stackEntry_setI (s : State) (a : Word) (k : Nat) : (s.setI a).stackEntry k = s.stackEntry k := rfl
@[simp] theorem stackEntry_setSp (s : State) (a : Fin 17) (k : Nat) : (s.setSp a).stackEntry k = s.stackEntry k := rfl
@[simp] theorem stackEntry_setMem (s : State) (a : Memory) (k : Nat) : (s.setMem a).stackEntry k = s.stackEntry k := rfl
@[simp] theorem stackEntry_setDisp (s : State) (a : BitVec 2048) (k : Nat) : (s.setDisp a).stackEntry k = s.stackEntry k := rfl
@[simp] theorem stackEntry_setRender (s : State) (a : Bool) (k : Nat) : (s.setRender a).stackEntry k = s.stackEntry k := rfl
@[simp] theorem stackEntry_setDt (s : State) (a : Byte) (k : Nat) : (s.setDt a).stackEntry k = s.stackEntry k := rfl
@[simp] theorem stackEntry_setSt (s : State) (a : Byte) (k : Nat) : (s.setSt a).stackEntry k = s.stackEntry k := rfl
@[simp] theorem stackEntry_setOp (s : State) (a : Word) (k : Nat) : (s.setOp a).stackEntry k = s.stackEntry k := rfl
@[simp] theorem stackEntry_setSoundActive (s : State) (a : Bool) (k : Nat) : (s.setSoundActive a).stackEntry k = s.stackEntry k := rfl
@[simp] theorem stackEntry_setKeys (s : State) (a : BitVec 16) (k : Nat) : (s.setKeys a).stackEntry k = s.stackEntry k := rfl
@[simp] theorem stackEntry_setAgenda (s : State) (a : List Move) (k : Nat) : (s.setAgenda a).stackEntry k = s.stackEntry k := rfl
@[simp] theorem stackEntry_setDraws (s : State) (a : Nat) (k : Nat) : (s.setDraws a).stackEntry k = s.stackEntry k := rfl
@[simp] theorem stackEntry_setStarted (s : State) (a : Bool) (k : Nat) : (s.setStarted a).stackEntry k = s.stackEntry k := rfl
@[simp] theorem stackEntry_raise (s : State) (f : Trap) (info : Word) (k : Nat) : (s.raise f info).stackEntry k = s.stackEntry k := rfl
@[simp] theorem stackEntry_advance (s : State) (k : Nat) : s.advance.stackEntry k = s.stackEntry k := rfl
@[simp] theorem stackEntry_skipIf (s : State) (c : Bool) (k : Nat) : (s.skipIf c).stackEntry k = s.stackEntry k := rfl
@[simp] theorem stackEntry_nextDraw (s : State) (k : Nat) : s.nextDraw.stackEntry k = s.stackEntry k := rfl
@[simp] theorem stackEntry_tick (s : State) (k : Nat) : s.tick.stackEntry k = s.stackEntry k := rfl
@[simp] theorem stackEntry_writeByte (s : State) (a : Nat) (b : Byte) (k : Nat) : (s.writeByte a b).stackEntry k = s.stackEntry k := rfl
@[simp] theorem stackEntry_setReg (s : State) (r : RegNum) (b : Byte) (k : Nat) : (s.setReg r b).stackEntry k = s.stackEntry k := rfl
@[simp] theorem stackEntry_setFlag (s : State) (f : Byte) (k : Nat) : (s.setFlag f).stackEntry k = s.stackEntry k := rfl

@[simp] theorem keyDown_setV (s : State) (a : Vector Byte 16) (k : Nat) : (s.setV a).keyDown k = s.keyDown k := rfl
@[simp] theorem keyDown_setPc (s : State) (a : Word) (k : Nat) : (s.setPc a).keyDown k = s.keyDown k := rfl
@[simp] theorem keyDown_setI (s : State) (a : Word) (k : Nat) : (s.setI a).keyDown k = s.keyDown k := rfl
@[simp] theorem keyDown_setStack (s : State) (a : Vector Word 16) (k : Nat) : (s.setStack a).keyDown k = s.keyDown k := rfl
@[simp] theorem keyDown_setSp (s : State) (a : Fin 17) (k : Nat) : (s.setSp a).keyDown k = s.keyDown k := rfl
@[simp] theorem keyDown_setMem (s : State) (a : Memory) (k : Nat) : (s.setMem a).keyDown k = s.keyDown k := rfl
@[simp] theorem keyDown_setDisp (s : State) (a : BitVec 2048) (k : Nat) : (s.setDisp a).keyDown k = s.keyDown k := rfl
@[simp] theorem keyDown_setRender (s : State) (a : Bool) (k : Nat) : (s.setRender a).keyDown k = s.keyDown k := rfl
@[simp] theorem keyDown_setDt (s : State) (a : Byte) (k : Nat) : (s.setDt a).keyDown k = s.keyDown k := rfl
@[simp] theorem keyDown_setSt (s : State) (a : Byte) (k : Nat) : (s.setSt a).keyDown k = s.keyDown k := rfl
@[simp] theorem keyDown_setOp (s : State) (a : Word) (k : Nat) : (s.setOp a).keyDown k = s.keyDown k := rfl
@[simp] theorem keyDown_setSoundActive (s : State) (a : Bool) (k : Nat) : (s.setSoundActive a).keyDown k = s.keyDown k := rfl
@[simp] theorem keyDown_setAgenda (s : State) (a : List Move) (k : Nat) : (s.setAgenda a).keyDown k = s.keyDown k := rfl
@[simp] theorem keyDown_setDraws (s : State) (a : Nat) (k : Nat) : (s.setDraws a).keyDown k = s.keyDown k := rfl
@[simp] theorem keyDown_setStarted (s : State) (a : Bool) (k : Nat) : (s.setStarted a).keyDown k = s.keyDown k := rfl
@[simp] theorem keyDown_raise (s : State) (f : Trap) (info : Word) (k : Nat) : (s.raise f info).keyDown k = s.keyDown k := rfl
@[simp] theorem keyDown_advance (s : State) (k : Nat) : s.advance.keyDown k = s.keyDown k := rfl
@[simp] theorem keyDown_skipIf (s : State) (c : Bool) (k : Nat) : (s.skipIf c).keyDown k = s.keyDown k := rfl
@[simp] theorem keyDown_nextDraw (s : State) (k : Nat) : s.nextDraw.keyDown k = s.keyDown k := rfl
@[simp] theorem keyDown_tick (s : State) (k : Nat) : s.tick.keyDown k = s.keyDown k := rfl
@[simp] theorem keyDown_writeByte (s : State) (a : Nat) (b : Byte) (k : Nat) : (s.writeByte a b).keyDown k = s.keyDown k := rfl
@[simp] theorem keyDown_setReg (s : State) (r : RegNum) (b : Byte) (k : Nat) : (s.setReg r b).keyDown k = s.keyDown k := rfl
@[simp] theorem keyDown_setFlag (s : State) (f : Byte) (k : Nat) : (s.setFlag f).keyDown k = s.keyDown k := rfl

end Sys2Proof.Laws.Reads
end

