-- ==== Sys2Proof/Laws/State.lean ====
section
/-! SUPPORT. One lemma per field per update of the state, each true by unfolding the update. -/

namespace Sys2Proof.Laws.State

open Sys2Proof.Machine

@[simp] theorem setV_v (s : State) (a : Vector Byte 16) : (s.setV a).v = a := rfl
@[simp] theorem setV_pc (s : State) (a : Vector Byte 16) : (s.setV a).pc = s.pc := rfl
@[simp] theorem setV_i (s : State) (a : Vector Byte 16) : (s.setV a).i = s.i := rfl
@[simp] theorem setV_stack (s : State) (a : Vector Byte 16) : (s.setV a).stack = s.stack := rfl
@[simp] theorem setV_sp (s : State) (a : Vector Byte 16) : (s.setV a).sp = s.sp := rfl
@[simp] theorem setV_mem (s : State) (a : Vector Byte 16) : (s.setV a).mem = s.mem := rfl
@[simp] theorem setV_disp (s : State) (a : Vector Byte 16) : (s.setV a).disp = s.disp := rfl
@[simp] theorem setV_render (s : State) (a : Vector Byte 16) : (s.setV a).render = s.render := rfl
@[simp] theorem setV_dt (s : State) (a : Vector Byte 16) : (s.setV a).dt = s.dt := rfl
@[simp] theorem setV_st (s : State) (a : Vector Byte 16) : (s.setV a).st = s.st := rfl
@[simp] theorem setV_op (s : State) (a : Vector Byte 16) : (s.setV a).op = s.op := rfl
@[simp] theorem setV_halted (s : State) (a : Vector Byte 16) : (s.setV a).halted = s.halted := rfl
@[simp] theorem setV_faultCause (s : State) (a : Vector Byte 16) : (s.setV a).faultCause = s.faultCause := rfl
@[simp] theorem setV_faultInfo (s : State) (a : Vector Byte 16) : (s.setV a).faultInfo = s.faultInfo := rfl
@[simp] theorem setV_soundActive (s : State) (a : Vector Byte 16) : (s.setV a).soundActive = s.soundActive := rfl
@[simp] theorem setV_keys (s : State) (a : Vector Byte 16) : (s.setV a).keys = s.keys := rfl
@[simp] theorem setV_agenda (s : State) (a : Vector Byte 16) : (s.setV a).agenda = s.agenda := rfl
@[simp] theorem setV_draws (s : State) (a : Vector Byte 16) : (s.setV a).draws = s.draws := rfl
@[simp] theorem setV_started (s : State) (a : Vector Byte 16) : (s.setV a).started = s.started := rfl

@[simp] theorem setPc_v (s : State) (a : Word) : (s.setPc a).v = s.v := rfl
@[simp] theorem setPc_pc (s : State) (a : Word) : (s.setPc a).pc = a := rfl
@[simp] theorem setPc_i (s : State) (a : Word) : (s.setPc a).i = s.i := rfl
@[simp] theorem setPc_stack (s : State) (a : Word) : (s.setPc a).stack = s.stack := rfl
@[simp] theorem setPc_sp (s : State) (a : Word) : (s.setPc a).sp = s.sp := rfl
@[simp] theorem setPc_mem (s : State) (a : Word) : (s.setPc a).mem = s.mem := rfl
@[simp] theorem setPc_disp (s : State) (a : Word) : (s.setPc a).disp = s.disp := rfl
@[simp] theorem setPc_render (s : State) (a : Word) : (s.setPc a).render = s.render := rfl
@[simp] theorem setPc_dt (s : State) (a : Word) : (s.setPc a).dt = s.dt := rfl
@[simp] theorem setPc_st (s : State) (a : Word) : (s.setPc a).st = s.st := rfl
@[simp] theorem setPc_op (s : State) (a : Word) : (s.setPc a).op = s.op := rfl
@[simp] theorem setPc_halted (s : State) (a : Word) : (s.setPc a).halted = s.halted := rfl
@[simp] theorem setPc_faultCause (s : State) (a : Word) : (s.setPc a).faultCause = s.faultCause := rfl
@[simp] theorem setPc_faultInfo (s : State) (a : Word) : (s.setPc a).faultInfo = s.faultInfo := rfl
@[simp] theorem setPc_soundActive (s : State) (a : Word) : (s.setPc a).soundActive = s.soundActive := rfl
@[simp] theorem setPc_keys (s : State) (a : Word) : (s.setPc a).keys = s.keys := rfl
@[simp] theorem setPc_agenda (s : State) (a : Word) : (s.setPc a).agenda = s.agenda := rfl
@[simp] theorem setPc_draws (s : State) (a : Word) : (s.setPc a).draws = s.draws := rfl
@[simp] theorem setPc_started (s : State) (a : Word) : (s.setPc a).started = s.started := rfl

@[simp] theorem setI_v (s : State) (a : Word) : (s.setI a).v = s.v := rfl
@[simp] theorem setI_pc (s : State) (a : Word) : (s.setI a).pc = s.pc := rfl
@[simp] theorem setI_i (s : State) (a : Word) : (s.setI a).i = a := rfl
@[simp] theorem setI_stack (s : State) (a : Word) : (s.setI a).stack = s.stack := rfl
@[simp] theorem setI_sp (s : State) (a : Word) : (s.setI a).sp = s.sp := rfl
@[simp] theorem setI_mem (s : State) (a : Word) : (s.setI a).mem = s.mem := rfl
@[simp] theorem setI_disp (s : State) (a : Word) : (s.setI a).disp = s.disp := rfl
@[simp] theorem setI_render (s : State) (a : Word) : (s.setI a).render = s.render := rfl
@[simp] theorem setI_dt (s : State) (a : Word) : (s.setI a).dt = s.dt := rfl
@[simp] theorem setI_st (s : State) (a : Word) : (s.setI a).st = s.st := rfl
@[simp] theorem setI_op (s : State) (a : Word) : (s.setI a).op = s.op := rfl
@[simp] theorem setI_halted (s : State) (a : Word) : (s.setI a).halted = s.halted := rfl
@[simp] theorem setI_faultCause (s : State) (a : Word) : (s.setI a).faultCause = s.faultCause := rfl
@[simp] theorem setI_faultInfo (s : State) (a : Word) : (s.setI a).faultInfo = s.faultInfo := rfl
@[simp] theorem setI_soundActive (s : State) (a : Word) : (s.setI a).soundActive = s.soundActive := rfl
@[simp] theorem setI_keys (s : State) (a : Word) : (s.setI a).keys = s.keys := rfl
@[simp] theorem setI_agenda (s : State) (a : Word) : (s.setI a).agenda = s.agenda := rfl
@[simp] theorem setI_draws (s : State) (a : Word) : (s.setI a).draws = s.draws := rfl
@[simp] theorem setI_started (s : State) (a : Word) : (s.setI a).started = s.started := rfl

@[simp] theorem setStack_v (s : State) (a : Vector Word 16) : (s.setStack a).v = s.v := rfl
@[simp] theorem setStack_pc (s : State) (a : Vector Word 16) : (s.setStack a).pc = s.pc := rfl
@[simp] theorem setStack_i (s : State) (a : Vector Word 16) : (s.setStack a).i = s.i := rfl
@[simp] theorem setStack_stack (s : State) (a : Vector Word 16) : (s.setStack a).stack = a := rfl
@[simp] theorem setStack_sp (s : State) (a : Vector Word 16) : (s.setStack a).sp = s.sp := rfl
@[simp] theorem setStack_mem (s : State) (a : Vector Word 16) : (s.setStack a).mem = s.mem := rfl
@[simp] theorem setStack_disp (s : State) (a : Vector Word 16) : (s.setStack a).disp = s.disp := rfl
@[simp] theorem setStack_render (s : State) (a : Vector Word 16) : (s.setStack a).render = s.render := rfl
@[simp] theorem setStack_dt (s : State) (a : Vector Word 16) : (s.setStack a).dt = s.dt := rfl
@[simp] theorem setStack_st (s : State) (a : Vector Word 16) : (s.setStack a).st = s.st := rfl
@[simp] theorem setStack_op (s : State) (a : Vector Word 16) : (s.setStack a).op = s.op := rfl
@[simp] theorem setStack_halted (s : State) (a : Vector Word 16) : (s.setStack a).halted = s.halted := rfl
@[simp] theorem setStack_faultCause (s : State) (a : Vector Word 16) : (s.setStack a).faultCause = s.faultCause := rfl
@[simp] theorem setStack_faultInfo (s : State) (a : Vector Word 16) : (s.setStack a).faultInfo = s.faultInfo := rfl
@[simp] theorem setStack_soundActive (s : State) (a : Vector Word 16) : (s.setStack a).soundActive = s.soundActive := rfl
@[simp] theorem setStack_keys (s : State) (a : Vector Word 16) : (s.setStack a).keys = s.keys := rfl
@[simp] theorem setStack_agenda (s : State) (a : Vector Word 16) : (s.setStack a).agenda = s.agenda := rfl
@[simp] theorem setStack_draws (s : State) (a : Vector Word 16) : (s.setStack a).draws = s.draws := rfl
@[simp] theorem setStack_started (s : State) (a : Vector Word 16) : (s.setStack a).started = s.started := rfl

@[simp] theorem setSp_v (s : State) (a : Fin 17) : (s.setSp a).v = s.v := rfl
@[simp] theorem setSp_pc (s : State) (a : Fin 17) : (s.setSp a).pc = s.pc := rfl
@[simp] theorem setSp_i (s : State) (a : Fin 17) : (s.setSp a).i = s.i := rfl
@[simp] theorem setSp_stack (s : State) (a : Fin 17) : (s.setSp a).stack = s.stack := rfl
@[simp] theorem setSp_sp (s : State) (a : Fin 17) : (s.setSp a).sp = a := rfl
@[simp] theorem setSp_mem (s : State) (a : Fin 17) : (s.setSp a).mem = s.mem := rfl
@[simp] theorem setSp_disp (s : State) (a : Fin 17) : (s.setSp a).disp = s.disp := rfl
@[simp] theorem setSp_render (s : State) (a : Fin 17) : (s.setSp a).render = s.render := rfl
@[simp] theorem setSp_dt (s : State) (a : Fin 17) : (s.setSp a).dt = s.dt := rfl
@[simp] theorem setSp_st (s : State) (a : Fin 17) : (s.setSp a).st = s.st := rfl
@[simp] theorem setSp_op (s : State) (a : Fin 17) : (s.setSp a).op = s.op := rfl
@[simp] theorem setSp_halted (s : State) (a : Fin 17) : (s.setSp a).halted = s.halted := rfl
@[simp] theorem setSp_faultCause (s : State) (a : Fin 17) : (s.setSp a).faultCause = s.faultCause := rfl
@[simp] theorem setSp_faultInfo (s : State) (a : Fin 17) : (s.setSp a).faultInfo = s.faultInfo := rfl
@[simp] theorem setSp_soundActive (s : State) (a : Fin 17) : (s.setSp a).soundActive = s.soundActive := rfl
@[simp] theorem setSp_keys (s : State) (a : Fin 17) : (s.setSp a).keys = s.keys := rfl
@[simp] theorem setSp_agenda (s : State) (a : Fin 17) : (s.setSp a).agenda = s.agenda := rfl
@[simp] theorem setSp_draws (s : State) (a : Fin 17) : (s.setSp a).draws = s.draws := rfl
@[simp] theorem setSp_started (s : State) (a : Fin 17) : (s.setSp a).started = s.started := rfl

@[simp] theorem setMem_v (s : State) (a : Memory) : (s.setMem a).v = s.v := rfl
@[simp] theorem setMem_pc (s : State) (a : Memory) : (s.setMem a).pc = s.pc := rfl
@[simp] theorem setMem_i (s : State) (a : Memory) : (s.setMem a).i = s.i := rfl
@[simp] theorem setMem_stack (s : State) (a : Memory) : (s.setMem a).stack = s.stack := rfl
@[simp] theorem setMem_sp (s : State) (a : Memory) : (s.setMem a).sp = s.sp := rfl
@[simp] theorem setMem_mem (s : State) (a : Memory) : (s.setMem a).mem = a := rfl
@[simp] theorem setMem_disp (s : State) (a : Memory) : (s.setMem a).disp = s.disp := rfl
@[simp] theorem setMem_render (s : State) (a : Memory) : (s.setMem a).render = s.render := rfl
@[simp] theorem setMem_dt (s : State) (a : Memory) : (s.setMem a).dt = s.dt := rfl
@[simp] theorem setMem_st (s : State) (a : Memory) : (s.setMem a).st = s.st := rfl
@[simp] theorem setMem_op (s : State) (a : Memory) : (s.setMem a).op = s.op := rfl
@[simp] theorem setMem_halted (s : State) (a : Memory) : (s.setMem a).halted = s.halted := rfl
@[simp] theorem setMem_faultCause (s : State) (a : Memory) : (s.setMem a).faultCause = s.faultCause := rfl
@[simp] theorem setMem_faultInfo (s : State) (a : Memory) : (s.setMem a).faultInfo = s.faultInfo := rfl
@[simp] theorem setMem_soundActive (s : State) (a : Memory) : (s.setMem a).soundActive = s.soundActive := rfl
@[simp] theorem setMem_keys (s : State) (a : Memory) : (s.setMem a).keys = s.keys := rfl
@[simp] theorem setMem_agenda (s : State) (a : Memory) : (s.setMem a).agenda = s.agenda := rfl
@[simp] theorem setMem_draws (s : State) (a : Memory) : (s.setMem a).draws = s.draws := rfl
@[simp] theorem setMem_started (s : State) (a : Memory) : (s.setMem a).started = s.started := rfl

@[simp] theorem setDisp_v (s : State) (a : BitVec 2048) : (s.setDisp a).v = s.v := rfl
@[simp] theorem setDisp_pc (s : State) (a : BitVec 2048) : (s.setDisp a).pc = s.pc := rfl
@[simp] theorem setDisp_i (s : State) (a : BitVec 2048) : (s.setDisp a).i = s.i := rfl
@[simp] theorem setDisp_stack (s : State) (a : BitVec 2048) : (s.setDisp a).stack = s.stack := rfl
@[simp] theorem setDisp_sp (s : State) (a : BitVec 2048) : (s.setDisp a).sp = s.sp := rfl
@[simp] theorem setDisp_mem (s : State) (a : BitVec 2048) : (s.setDisp a).mem = s.mem := rfl
@[simp] theorem setDisp_disp (s : State) (a : BitVec 2048) : (s.setDisp a).disp = a := rfl
@[simp] theorem setDisp_render (s : State) (a : BitVec 2048) : (s.setDisp a).render = s.render := rfl
@[simp] theorem setDisp_dt (s : State) (a : BitVec 2048) : (s.setDisp a).dt = s.dt := rfl
@[simp] theorem setDisp_st (s : State) (a : BitVec 2048) : (s.setDisp a).st = s.st := rfl
@[simp] theorem setDisp_op (s : State) (a : BitVec 2048) : (s.setDisp a).op = s.op := rfl
@[simp] theorem setDisp_halted (s : State) (a : BitVec 2048) : (s.setDisp a).halted = s.halted := rfl
@[simp] theorem setDisp_faultCause (s : State) (a : BitVec 2048) : (s.setDisp a).faultCause = s.faultCause := rfl
@[simp] theorem setDisp_faultInfo (s : State) (a : BitVec 2048) : (s.setDisp a).faultInfo = s.faultInfo := rfl
@[simp] theorem setDisp_soundActive (s : State) (a : BitVec 2048) : (s.setDisp a).soundActive = s.soundActive := rfl
@[simp] theorem setDisp_keys (s : State) (a : BitVec 2048) : (s.setDisp a).keys = s.keys := rfl
@[simp] theorem setDisp_agenda (s : State) (a : BitVec 2048) : (s.setDisp a).agenda = s.agenda := rfl
@[simp] theorem setDisp_draws (s : State) (a : BitVec 2048) : (s.setDisp a).draws = s.draws := rfl
@[simp] theorem setDisp_started (s : State) (a : BitVec 2048) : (s.setDisp a).started = s.started := rfl

@[simp] theorem setRender_v (s : State) (a : Bool) : (s.setRender a).v = s.v := rfl
@[simp] theorem setRender_pc (s : State) (a : Bool) : (s.setRender a).pc = s.pc := rfl
@[simp] theorem setRender_i (s : State) (a : Bool) : (s.setRender a).i = s.i := rfl
@[simp] theorem setRender_stack (s : State) (a : Bool) : (s.setRender a).stack = s.stack := rfl
@[simp] theorem setRender_sp (s : State) (a : Bool) : (s.setRender a).sp = s.sp := rfl
@[simp] theorem setRender_mem (s : State) (a : Bool) : (s.setRender a).mem = s.mem := rfl
@[simp] theorem setRender_disp (s : State) (a : Bool) : (s.setRender a).disp = s.disp := rfl
@[simp] theorem setRender_render (s : State) (a : Bool) : (s.setRender a).render = a := rfl
@[simp] theorem setRender_dt (s : State) (a : Bool) : (s.setRender a).dt = s.dt := rfl
@[simp] theorem setRender_st (s : State) (a : Bool) : (s.setRender a).st = s.st := rfl
@[simp] theorem setRender_op (s : State) (a : Bool) : (s.setRender a).op = s.op := rfl
@[simp] theorem setRender_halted (s : State) (a : Bool) : (s.setRender a).halted = s.halted := rfl
@[simp] theorem setRender_faultCause (s : State) (a : Bool) : (s.setRender a).faultCause = s.faultCause := rfl
@[simp] theorem setRender_faultInfo (s : State) (a : Bool) : (s.setRender a).faultInfo = s.faultInfo := rfl
@[simp] theorem setRender_soundActive (s : State) (a : Bool) : (s.setRender a).soundActive = s.soundActive := rfl
@[simp] theorem setRender_keys (s : State) (a : Bool) : (s.setRender a).keys = s.keys := rfl
@[simp] theorem setRender_agenda (s : State) (a : Bool) : (s.setRender a).agenda = s.agenda := rfl
@[simp] theorem setRender_draws (s : State) (a : Bool) : (s.setRender a).draws = s.draws := rfl
@[simp] theorem setRender_started (s : State) (a : Bool) : (s.setRender a).started = s.started := rfl

@[simp] theorem setDt_v (s : State) (a : Byte) : (s.setDt a).v = s.v := rfl
@[simp] theorem setDt_pc (s : State) (a : Byte) : (s.setDt a).pc = s.pc := rfl
@[simp] theorem setDt_i (s : State) (a : Byte) : (s.setDt a).i = s.i := rfl
@[simp] theorem setDt_stack (s : State) (a : Byte) : (s.setDt a).stack = s.stack := rfl
@[simp] theorem setDt_sp (s : State) (a : Byte) : (s.setDt a).sp = s.sp := rfl
@[simp] theorem setDt_mem (s : State) (a : Byte) : (s.setDt a).mem = s.mem := rfl
@[simp] theorem setDt_disp (s : State) (a : Byte) : (s.setDt a).disp = s.disp := rfl
@[simp] theorem setDt_render (s : State) (a : Byte) : (s.setDt a).render = s.render := rfl
@[simp] theorem setDt_dt (s : State) (a : Byte) : (s.setDt a).dt = a := rfl
@[simp] theorem setDt_st (s : State) (a : Byte) : (s.setDt a).st = s.st := rfl
@[simp] theorem setDt_op (s : State) (a : Byte) : (s.setDt a).op = s.op := rfl
@[simp] theorem setDt_halted (s : State) (a : Byte) : (s.setDt a).halted = s.halted := rfl
@[simp] theorem setDt_faultCause (s : State) (a : Byte) : (s.setDt a).faultCause = s.faultCause := rfl
@[simp] theorem setDt_faultInfo (s : State) (a : Byte) : (s.setDt a).faultInfo = s.faultInfo := rfl
@[simp] theorem setDt_soundActive (s : State) (a : Byte) : (s.setDt a).soundActive = s.soundActive := rfl
@[simp] theorem setDt_keys (s : State) (a : Byte) : (s.setDt a).keys = s.keys := rfl
@[simp] theorem setDt_agenda (s : State) (a : Byte) : (s.setDt a).agenda = s.agenda := rfl
@[simp] theorem setDt_draws (s : State) (a : Byte) : (s.setDt a).draws = s.draws := rfl
@[simp] theorem setDt_started (s : State) (a : Byte) : (s.setDt a).started = s.started := rfl

@[simp] theorem setSt_v (s : State) (a : Byte) : (s.setSt a).v = s.v := rfl
@[simp] theorem setSt_pc (s : State) (a : Byte) : (s.setSt a).pc = s.pc := rfl
@[simp] theorem setSt_i (s : State) (a : Byte) : (s.setSt a).i = s.i := rfl
@[simp] theorem setSt_stack (s : State) (a : Byte) : (s.setSt a).stack = s.stack := rfl
@[simp] theorem setSt_sp (s : State) (a : Byte) : (s.setSt a).sp = s.sp := rfl
@[simp] theorem setSt_mem (s : State) (a : Byte) : (s.setSt a).mem = s.mem := rfl
@[simp] theorem setSt_disp (s : State) (a : Byte) : (s.setSt a).disp = s.disp := rfl
@[simp] theorem setSt_render (s : State) (a : Byte) : (s.setSt a).render = s.render := rfl
@[simp] theorem setSt_dt (s : State) (a : Byte) : (s.setSt a).dt = s.dt := rfl
@[simp] theorem setSt_st (s : State) (a : Byte) : (s.setSt a).st = a := rfl
@[simp] theorem setSt_op (s : State) (a : Byte) : (s.setSt a).op = s.op := rfl
@[simp] theorem setSt_halted (s : State) (a : Byte) : (s.setSt a).halted = s.halted := rfl
@[simp] theorem setSt_faultCause (s : State) (a : Byte) : (s.setSt a).faultCause = s.faultCause := rfl
@[simp] theorem setSt_faultInfo (s : State) (a : Byte) : (s.setSt a).faultInfo = s.faultInfo := rfl
@[simp] theorem setSt_soundActive (s : State) (a : Byte) : (s.setSt a).soundActive = s.soundActive := rfl
@[simp] theorem setSt_keys (s : State) (a : Byte) : (s.setSt a).keys = s.keys := rfl
@[simp] theorem setSt_agenda (s : State) (a : Byte) : (s.setSt a).agenda = s.agenda := rfl
@[simp] theorem setSt_draws (s : State) (a : Byte) : (s.setSt a).draws = s.draws := rfl
@[simp] theorem setSt_started (s : State) (a : Byte) : (s.setSt a).started = s.started := rfl

@[simp] theorem setOp_v (s : State) (a : Word) : (s.setOp a).v = s.v := rfl
@[simp] theorem setOp_pc (s : State) (a : Word) : (s.setOp a).pc = s.pc := rfl
@[simp] theorem setOp_i (s : State) (a : Word) : (s.setOp a).i = s.i := rfl
@[simp] theorem setOp_stack (s : State) (a : Word) : (s.setOp a).stack = s.stack := rfl
@[simp] theorem setOp_sp (s : State) (a : Word) : (s.setOp a).sp = s.sp := rfl
@[simp] theorem setOp_mem (s : State) (a : Word) : (s.setOp a).mem = s.mem := rfl
@[simp] theorem setOp_disp (s : State) (a : Word) : (s.setOp a).disp = s.disp := rfl
@[simp] theorem setOp_render (s : State) (a : Word) : (s.setOp a).render = s.render := rfl
@[simp] theorem setOp_dt (s : State) (a : Word) : (s.setOp a).dt = s.dt := rfl
@[simp] theorem setOp_st (s : State) (a : Word) : (s.setOp a).st = s.st := rfl
@[simp] theorem setOp_op (s : State) (a : Word) : (s.setOp a).op = a := rfl
@[simp] theorem setOp_halted (s : State) (a : Word) : (s.setOp a).halted = s.halted := rfl
@[simp] theorem setOp_faultCause (s : State) (a : Word) : (s.setOp a).faultCause = s.faultCause := rfl
@[simp] theorem setOp_faultInfo (s : State) (a : Word) : (s.setOp a).faultInfo = s.faultInfo := rfl
@[simp] theorem setOp_soundActive (s : State) (a : Word) : (s.setOp a).soundActive = s.soundActive := rfl
@[simp] theorem setOp_keys (s : State) (a : Word) : (s.setOp a).keys = s.keys := rfl
@[simp] theorem setOp_agenda (s : State) (a : Word) : (s.setOp a).agenda = s.agenda := rfl
@[simp] theorem setOp_draws (s : State) (a : Word) : (s.setOp a).draws = s.draws := rfl
@[simp] theorem setOp_started (s : State) (a : Word) : (s.setOp a).started = s.started := rfl

@[simp] theorem setSoundActive_v (s : State) (a : Bool) : (s.setSoundActive a).v = s.v := rfl
@[simp] theorem setSoundActive_pc (s : State) (a : Bool) : (s.setSoundActive a).pc = s.pc := rfl
@[simp] theorem setSoundActive_i (s : State) (a : Bool) : (s.setSoundActive a).i = s.i := rfl
@[simp] theorem setSoundActive_stack (s : State) (a : Bool) : (s.setSoundActive a).stack = s.stack := rfl
@[simp] theorem setSoundActive_sp (s : State) (a : Bool) : (s.setSoundActive a).sp = s.sp := rfl
@[simp] theorem setSoundActive_mem (s : State) (a : Bool) : (s.setSoundActive a).mem = s.mem := rfl
@[simp] theorem setSoundActive_disp (s : State) (a : Bool) : (s.setSoundActive a).disp = s.disp := rfl
@[simp] theorem setSoundActive_render (s : State) (a : Bool) : (s.setSoundActive a).render = s.render := rfl
@[simp] theorem setSoundActive_dt (s : State) (a : Bool) : (s.setSoundActive a).dt = s.dt := rfl
@[simp] theorem setSoundActive_st (s : State) (a : Bool) : (s.setSoundActive a).st = s.st := rfl
@[simp] theorem setSoundActive_op (s : State) (a : Bool) : (s.setSoundActive a).op = s.op := rfl
@[simp] theorem setSoundActive_halted (s : State) (a : Bool) : (s.setSoundActive a).halted = s.halted := rfl
@[simp] theorem setSoundActive_faultCause (s : State) (a : Bool) : (s.setSoundActive a).faultCause = s.faultCause := rfl
@[simp] theorem setSoundActive_faultInfo (s : State) (a : Bool) : (s.setSoundActive a).faultInfo = s.faultInfo := rfl
@[simp] theorem setSoundActive_soundActive (s : State) (a : Bool) : (s.setSoundActive a).soundActive = a := rfl
@[simp] theorem setSoundActive_keys (s : State) (a : Bool) : (s.setSoundActive a).keys = s.keys := rfl
@[simp] theorem setSoundActive_agenda (s : State) (a : Bool) : (s.setSoundActive a).agenda = s.agenda := rfl
@[simp] theorem setSoundActive_draws (s : State) (a : Bool) : (s.setSoundActive a).draws = s.draws := rfl
@[simp] theorem setSoundActive_started (s : State) (a : Bool) : (s.setSoundActive a).started = s.started := rfl

@[simp] theorem setKeys_v (s : State) (a : BitVec 16) : (s.setKeys a).v = s.v := rfl
@[simp] theorem setKeys_pc (s : State) (a : BitVec 16) : (s.setKeys a).pc = s.pc := rfl
@[simp] theorem setKeys_i (s : State) (a : BitVec 16) : (s.setKeys a).i = s.i := rfl
@[simp] theorem setKeys_stack (s : State) (a : BitVec 16) : (s.setKeys a).stack = s.stack := rfl
@[simp] theorem setKeys_sp (s : State) (a : BitVec 16) : (s.setKeys a).sp = s.sp := rfl
@[simp] theorem setKeys_mem (s : State) (a : BitVec 16) : (s.setKeys a).mem = s.mem := rfl
@[simp] theorem setKeys_disp (s : State) (a : BitVec 16) : (s.setKeys a).disp = s.disp := rfl
@[simp] theorem setKeys_render (s : State) (a : BitVec 16) : (s.setKeys a).render = s.render := rfl
@[simp] theorem setKeys_dt (s : State) (a : BitVec 16) : (s.setKeys a).dt = s.dt := rfl
@[simp] theorem setKeys_st (s : State) (a : BitVec 16) : (s.setKeys a).st = s.st := rfl
@[simp] theorem setKeys_op (s : State) (a : BitVec 16) : (s.setKeys a).op = s.op := rfl
@[simp] theorem setKeys_halted (s : State) (a : BitVec 16) : (s.setKeys a).halted = s.halted := rfl
@[simp] theorem setKeys_faultCause (s : State) (a : BitVec 16) : (s.setKeys a).faultCause = s.faultCause := rfl
@[simp] theorem setKeys_faultInfo (s : State) (a : BitVec 16) : (s.setKeys a).faultInfo = s.faultInfo := rfl
@[simp] theorem setKeys_soundActive (s : State) (a : BitVec 16) : (s.setKeys a).soundActive = s.soundActive := rfl
@[simp] theorem setKeys_keys (s : State) (a : BitVec 16) : (s.setKeys a).keys = a := rfl
@[simp] theorem setKeys_agenda (s : State) (a : BitVec 16) : (s.setKeys a).agenda = s.agenda := rfl
@[simp] theorem setKeys_draws (s : State) (a : BitVec 16) : (s.setKeys a).draws = s.draws := rfl
@[simp] theorem setKeys_started (s : State) (a : BitVec 16) : (s.setKeys a).started = s.started := rfl

@[simp] theorem setAgenda_v (s : State) (a : List Move) : (s.setAgenda a).v = s.v := rfl
@[simp] theorem setAgenda_pc (s : State) (a : List Move) : (s.setAgenda a).pc = s.pc := rfl
@[simp] theorem setAgenda_i (s : State) (a : List Move) : (s.setAgenda a).i = s.i := rfl
@[simp] theorem setAgenda_stack (s : State) (a : List Move) : (s.setAgenda a).stack = s.stack := rfl
@[simp] theorem setAgenda_sp (s : State) (a : List Move) : (s.setAgenda a).sp = s.sp := rfl
@[simp] theorem setAgenda_mem (s : State) (a : List Move) : (s.setAgenda a).mem = s.mem := rfl
@[simp] theorem setAgenda_disp (s : State) (a : List Move) : (s.setAgenda a).disp = s.disp := rfl
@[simp] theorem setAgenda_render (s : State) (a : List Move) : (s.setAgenda a).render = s.render := rfl
@[simp] theorem setAgenda_dt (s : State) (a : List Move) : (s.setAgenda a).dt = s.dt := rfl
@[simp] theorem setAgenda_st (s : State) (a : List Move) : (s.setAgenda a).st = s.st := rfl
@[simp] theorem setAgenda_op (s : State) (a : List Move) : (s.setAgenda a).op = s.op := rfl
@[simp] theorem setAgenda_halted (s : State) (a : List Move) : (s.setAgenda a).halted = s.halted := rfl
@[simp] theorem setAgenda_faultCause (s : State) (a : List Move) : (s.setAgenda a).faultCause = s.faultCause := rfl
@[simp] theorem setAgenda_faultInfo (s : State) (a : List Move) : (s.setAgenda a).faultInfo = s.faultInfo := rfl
@[simp] theorem setAgenda_soundActive (s : State) (a : List Move) : (s.setAgenda a).soundActive = s.soundActive := rfl
@[simp] theorem setAgenda_keys (s : State) (a : List Move) : (s.setAgenda a).keys = s.keys := rfl
@[simp] theorem setAgenda_agenda (s : State) (a : List Move) : (s.setAgenda a).agenda = a := rfl
@[simp] theorem setAgenda_draws (s : State) (a : List Move) : (s.setAgenda a).draws = s.draws := rfl
@[simp] theorem setAgenda_started (s : State) (a : List Move) : (s.setAgenda a).started = s.started := rfl

@[simp] theorem setDraws_v (s : State) (a : Nat) : (s.setDraws a).v = s.v := rfl
@[simp] theorem setDraws_pc (s : State) (a : Nat) : (s.setDraws a).pc = s.pc := rfl
@[simp] theorem setDraws_i (s : State) (a : Nat) : (s.setDraws a).i = s.i := rfl
@[simp] theorem setDraws_stack (s : State) (a : Nat) : (s.setDraws a).stack = s.stack := rfl
@[simp] theorem setDraws_sp (s : State) (a : Nat) : (s.setDraws a).sp = s.sp := rfl
@[simp] theorem setDraws_mem (s : State) (a : Nat) : (s.setDraws a).mem = s.mem := rfl
@[simp] theorem setDraws_disp (s : State) (a : Nat) : (s.setDraws a).disp = s.disp := rfl
@[simp] theorem setDraws_render (s : State) (a : Nat) : (s.setDraws a).render = s.render := rfl
@[simp] theorem setDraws_dt (s : State) (a : Nat) : (s.setDraws a).dt = s.dt := rfl
@[simp] theorem setDraws_st (s : State) (a : Nat) : (s.setDraws a).st = s.st := rfl
@[simp] theorem setDraws_op (s : State) (a : Nat) : (s.setDraws a).op = s.op := rfl
@[simp] theorem setDraws_halted (s : State) (a : Nat) : (s.setDraws a).halted = s.halted := rfl
@[simp] theorem setDraws_faultCause (s : State) (a : Nat) : (s.setDraws a).faultCause = s.faultCause := rfl
@[simp] theorem setDraws_faultInfo (s : State) (a : Nat) : (s.setDraws a).faultInfo = s.faultInfo := rfl
@[simp] theorem setDraws_soundActive (s : State) (a : Nat) : (s.setDraws a).soundActive = s.soundActive := rfl
@[simp] theorem setDraws_keys (s : State) (a : Nat) : (s.setDraws a).keys = s.keys := rfl
@[simp] theorem setDraws_agenda (s : State) (a : Nat) : (s.setDraws a).agenda = s.agenda := rfl
@[simp] theorem setDraws_draws (s : State) (a : Nat) : (s.setDraws a).draws = a := rfl
@[simp] theorem setDraws_started (s : State) (a : Nat) : (s.setDraws a).started = s.started := rfl

@[simp] theorem setStarted_v (s : State) (a : Bool) : (s.setStarted a).v = s.v := rfl
@[simp] theorem setStarted_pc (s : State) (a : Bool) : (s.setStarted a).pc = s.pc := rfl
@[simp] theorem setStarted_i (s : State) (a : Bool) : (s.setStarted a).i = s.i := rfl
@[simp] theorem setStarted_stack (s : State) (a : Bool) : (s.setStarted a).stack = s.stack := rfl
@[simp] theorem setStarted_sp (s : State) (a : Bool) : (s.setStarted a).sp = s.sp := rfl
@[simp] theorem setStarted_mem (s : State) (a : Bool) : (s.setStarted a).mem = s.mem := rfl
@[simp] theorem setStarted_disp (s : State) (a : Bool) : (s.setStarted a).disp = s.disp := rfl
@[simp] theorem setStarted_render (s : State) (a : Bool) : (s.setStarted a).render = s.render := rfl
@[simp] theorem setStarted_dt (s : State) (a : Bool) : (s.setStarted a).dt = s.dt := rfl
@[simp] theorem setStarted_st (s : State) (a : Bool) : (s.setStarted a).st = s.st := rfl
@[simp] theorem setStarted_op (s : State) (a : Bool) : (s.setStarted a).op = s.op := rfl
@[simp] theorem setStarted_halted (s : State) (a : Bool) : (s.setStarted a).halted = s.halted := rfl
@[simp] theorem setStarted_faultCause (s : State) (a : Bool) : (s.setStarted a).faultCause = s.faultCause := rfl
@[simp] theorem setStarted_faultInfo (s : State) (a : Bool) : (s.setStarted a).faultInfo = s.faultInfo := rfl
@[simp] theorem setStarted_soundActive (s : State) (a : Bool) : (s.setStarted a).soundActive = s.soundActive := rfl
@[simp] theorem setStarted_keys (s : State) (a : Bool) : (s.setStarted a).keys = s.keys := rfl
@[simp] theorem setStarted_agenda (s : State) (a : Bool) : (s.setStarted a).agenda = s.agenda := rfl
@[simp] theorem setStarted_draws (s : State) (a : Bool) : (s.setStarted a).draws = s.draws := rfl
@[simp] theorem setStarted_started (s : State) (a : Bool) : (s.setStarted a).started = a := rfl

@[simp] theorem raise_v (s : State) (t : Trap) (info : Word) : (s.raise t info).v = s.v := rfl
@[simp] theorem raise_pc (s : State) (t : Trap) (info : Word) : (s.raise t info).pc = s.pc := rfl
@[simp] theorem raise_i (s : State) (t : Trap) (info : Word) : (s.raise t info).i = s.i := rfl
@[simp] theorem raise_stack (s : State) (t : Trap) (info : Word) : (s.raise t info).stack = s.stack := rfl
@[simp] theorem raise_sp (s : State) (t : Trap) (info : Word) : (s.raise t info).sp = s.sp := rfl
@[simp] theorem raise_mem (s : State) (t : Trap) (info : Word) : (s.raise t info).mem = s.mem := rfl
@[simp] theorem raise_disp (s : State) (t : Trap) (info : Word) : (s.raise t info).disp = s.disp := rfl
@[simp] theorem raise_render (s : State) (t : Trap) (info : Word) : (s.raise t info).render = s.render := rfl
@[simp] theorem raise_dt (s : State) (t : Trap) (info : Word) : (s.raise t info).dt = s.dt := rfl
@[simp] theorem raise_st (s : State) (t : Trap) (info : Word) : (s.raise t info).st = s.st := rfl
@[simp] theorem raise_op (s : State) (t : Trap) (info : Word) : (s.raise t info).op = s.op := rfl
@[simp] theorem raise_halted (s : State) (t : Trap) (info : Word) : (s.raise t info).halted = true := rfl
@[simp] theorem raise_faultCause (s : State) (t : Trap) (info : Word) : (s.raise t info).faultCause = t.code := rfl
@[simp] theorem raise_faultInfo (s : State) (t : Trap) (info : Word) : (s.raise t info).faultInfo = info := rfl
@[simp] theorem raise_soundActive (s : State) (t : Trap) (info : Word) : (s.raise t info).soundActive = s.soundActive := rfl
@[simp] theorem raise_keys (s : State) (t : Trap) (info : Word) : (s.raise t info).keys = s.keys := rfl
@[simp] theorem raise_agenda (s : State) (t : Trap) (info : Word) : (s.raise t info).agenda = s.agenda := rfl
@[simp] theorem raise_draws (s : State) (t : Trap) (info : Word) : (s.raise t info).draws = s.draws := rfl
@[simp] theorem raise_started (s : State) (t : Trap) (info : Word) : (s.raise t info).started = s.started := rfl

@[simp] theorem setReg_v (s : State) (r : RegNum) (b : Byte) : (s.setReg r b).v = s.v.set r.toNat b r.isLt := rfl
@[simp] theorem setReg_pc (s : State) (r : RegNum) (b : Byte) : (s.setReg r b).pc = s.pc := rfl
@[simp] theorem setReg_i (s : State) (r : RegNum) (b : Byte) : (s.setReg r b).i = s.i := rfl
@[simp] theorem setReg_stack (s : State) (r : RegNum) (b : Byte) : (s.setReg r b).stack = s.stack := rfl
@[simp] theorem setReg_sp (s : State) (r : RegNum) (b : Byte) : (s.setReg r b).sp = s.sp := rfl
@[simp] theorem setReg_mem (s : State) (r : RegNum) (b : Byte) : (s.setReg r b).mem = s.mem := rfl
@[simp] theorem setReg_disp (s : State) (r : RegNum) (b : Byte) : (s.setReg r b).disp = s.disp := rfl
@[simp] theorem setReg_render (s : State) (r : RegNum) (b : Byte) : (s.setReg r b).render = s.render := rfl
@[simp] theorem setReg_dt (s : State) (r : RegNum) (b : Byte) : (s.setReg r b).dt = s.dt := rfl
@[simp] theorem setReg_st (s : State) (r : RegNum) (b : Byte) : (s.setReg r b).st = s.st := rfl
@[simp] theorem setReg_op (s : State) (r : RegNum) (b : Byte) : (s.setReg r b).op = s.op := rfl
@[simp] theorem setReg_halted (s : State) (r : RegNum) (b : Byte) : (s.setReg r b).halted = s.halted := rfl
@[simp] theorem setReg_faultCause (s : State) (r : RegNum) (b : Byte) : (s.setReg r b).faultCause = s.faultCause := rfl
@[simp] theorem setReg_faultInfo (s : State) (r : RegNum) (b : Byte) : (s.setReg r b).faultInfo = s.faultInfo := rfl
@[simp] theorem setReg_soundActive (s : State) (r : RegNum) (b : Byte) : (s.setReg r b).soundActive = s.soundActive := rfl
@[simp] theorem setReg_keys (s : State) (r : RegNum) (b : Byte) : (s.setReg r b).keys = s.keys := rfl
@[simp] theorem setReg_agenda (s : State) (r : RegNum) (b : Byte) : (s.setReg r b).agenda = s.agenda := rfl
@[simp] theorem setReg_draws (s : State) (r : RegNum) (b : Byte) : (s.setReg r b).draws = s.draws := rfl
@[simp] theorem setReg_started (s : State) (r : RegNum) (b : Byte) : (s.setReg r b).started = s.started := rfl

@[simp] theorem advance_v (s : State) : s.advance.v = s.v := rfl
@[simp] theorem advance_pc (s : State) : s.advance.pc = s.pc + 2 := rfl
@[simp] theorem advance_i (s : State) : s.advance.i = s.i := rfl
@[simp] theorem advance_stack (s : State) : s.advance.stack = s.stack := rfl
@[simp] theorem advance_sp (s : State) : s.advance.sp = s.sp := rfl
@[simp] theorem advance_mem (s : State) : s.advance.mem = s.mem := rfl
@[simp] theorem advance_disp (s : State) : s.advance.disp = s.disp := rfl
@[simp] theorem advance_render (s : State) : s.advance.render = s.render := rfl
@[simp] theorem advance_dt (s : State) : s.advance.dt = s.dt := rfl
@[simp] theorem advance_st (s : State) : s.advance.st = s.st := rfl
@[simp] theorem advance_op (s : State) : s.advance.op = s.op := rfl
@[simp] theorem advance_halted (s : State) : s.advance.halted = s.halted := rfl
@[simp] theorem advance_faultCause (s : State) : s.advance.faultCause = s.faultCause := rfl
@[simp] theorem advance_faultInfo (s : State) : s.advance.faultInfo = s.faultInfo := rfl
@[simp] theorem advance_soundActive (s : State) : s.advance.soundActive = s.soundActive := rfl
@[simp] theorem advance_keys (s : State) : s.advance.keys = s.keys := rfl
@[simp] theorem advance_agenda (s : State) : s.advance.agenda = s.agenda := rfl
@[simp] theorem advance_draws (s : State) : s.advance.draws = s.draws := rfl
@[simp] theorem advance_started (s : State) : s.advance.started = s.started := rfl

@[simp] theorem skipIf_v (s : State) (c : Bool) : (s.skipIf c).v = s.v := rfl
@[simp] theorem skipIf_pc (s : State) (c : Bool) : (s.skipIf c).pc = s.pc + if c then 4 else 2 := rfl
@[simp] theorem skipIf_i (s : State) (c : Bool) : (s.skipIf c).i = s.i := rfl
@[simp] theorem skipIf_stack (s : State) (c : Bool) : (s.skipIf c).stack = s.stack := rfl
@[simp] theorem skipIf_sp (s : State) (c : Bool) : (s.skipIf c).sp = s.sp := rfl
@[simp] theorem skipIf_mem (s : State) (c : Bool) : (s.skipIf c).mem = s.mem := rfl
@[simp] theorem skipIf_disp (s : State) (c : Bool) : (s.skipIf c).disp = s.disp := rfl
@[simp] theorem skipIf_render (s : State) (c : Bool) : (s.skipIf c).render = s.render := rfl
@[simp] theorem skipIf_dt (s : State) (c : Bool) : (s.skipIf c).dt = s.dt := rfl
@[simp] theorem skipIf_st (s : State) (c : Bool) : (s.skipIf c).st = s.st := rfl
@[simp] theorem skipIf_op (s : State) (c : Bool) : (s.skipIf c).op = s.op := rfl
@[simp] theorem skipIf_halted (s : State) (c : Bool) : (s.skipIf c).halted = s.halted := rfl
@[simp] theorem skipIf_faultCause (s : State) (c : Bool) : (s.skipIf c).faultCause = s.faultCause := rfl
@[simp] theorem skipIf_faultInfo (s : State) (c : Bool) : (s.skipIf c).faultInfo = s.faultInfo := rfl
@[simp] theorem skipIf_soundActive (s : State) (c : Bool) : (s.skipIf c).soundActive = s.soundActive := rfl
@[simp] theorem skipIf_keys (s : State) (c : Bool) : (s.skipIf c).keys = s.keys := rfl
@[simp] theorem skipIf_agenda (s : State) (c : Bool) : (s.skipIf c).agenda = s.agenda := rfl
@[simp] theorem skipIf_draws (s : State) (c : Bool) : (s.skipIf c).draws = s.draws := rfl
@[simp] theorem skipIf_started (s : State) (c : Bool) : (s.skipIf c).started = s.started := rfl

@[simp] theorem writeByte_v (s : State) (a : Nat) (b : Byte) : (s.writeByte a b).v = s.v := rfl
@[simp] theorem writeByte_pc (s : State) (a : Nat) (b : Byte) : (s.writeByte a b).pc = s.pc := rfl
@[simp] theorem writeByte_i (s : State) (a : Nat) (b : Byte) : (s.writeByte a b).i = s.i := rfl
@[simp] theorem writeByte_stack (s : State) (a : Nat) (b : Byte) : (s.writeByte a b).stack = s.stack := rfl
@[simp] theorem writeByte_sp (s : State) (a : Nat) (b : Byte) : (s.writeByte a b).sp = s.sp := rfl
@[simp] theorem writeByte_mem (s : State) (a : Nat) (b : Byte) : (s.writeByte a b).mem = s.mem.write a b := rfl
@[simp] theorem writeByte_disp (s : State) (a : Nat) (b : Byte) : (s.writeByte a b).disp = s.disp := rfl
@[simp] theorem writeByte_render (s : State) (a : Nat) (b : Byte) : (s.writeByte a b).render = s.render := rfl
@[simp] theorem writeByte_dt (s : State) (a : Nat) (b : Byte) : (s.writeByte a b).dt = s.dt := rfl
@[simp] theorem writeByte_st (s : State) (a : Nat) (b : Byte) : (s.writeByte a b).st = s.st := rfl
@[simp] theorem writeByte_op (s : State) (a : Nat) (b : Byte) : (s.writeByte a b).op = s.op := rfl
@[simp] theorem writeByte_halted (s : State) (a : Nat) (b : Byte) : (s.writeByte a b).halted = s.halted := rfl
@[simp] theorem writeByte_faultCause (s : State) (a : Nat) (b : Byte) : (s.writeByte a b).faultCause = s.faultCause := rfl
@[simp] theorem writeByte_faultInfo (s : State) (a : Nat) (b : Byte) : (s.writeByte a b).faultInfo = s.faultInfo := rfl
@[simp] theorem writeByte_soundActive (s : State) (a : Nat) (b : Byte) : (s.writeByte a b).soundActive = s.soundActive := rfl
@[simp] theorem writeByte_keys (s : State) (a : Nat) (b : Byte) : (s.writeByte a b).keys = s.keys := rfl
@[simp] theorem writeByte_agenda (s : State) (a : Nat) (b : Byte) : (s.writeByte a b).agenda = s.agenda := rfl
@[simp] theorem writeByte_draws (s : State) (a : Nat) (b : Byte) : (s.writeByte a b).draws = s.draws := rfl
@[simp] theorem writeByte_started (s : State) (a : Nat) (b : Byte) : (s.writeByte a b).started = s.started := rfl

@[simp] theorem tick_v (s : State) : s.tick.v = s.v := rfl
@[simp] theorem tick_pc (s : State) : s.tick.pc = s.pc := rfl
@[simp] theorem tick_i (s : State) : s.tick.i = s.i := rfl
@[simp] theorem tick_stack (s : State) : s.tick.stack = s.stack := rfl
@[simp] theorem tick_sp (s : State) : s.tick.sp = s.sp := rfl
@[simp] theorem tick_mem (s : State) : s.tick.mem = s.mem := rfl
@[simp] theorem tick_disp (s : State) : s.tick.disp = s.disp := rfl
@[simp] theorem tick_render (s : State) : s.tick.render = s.render := rfl
@[simp] theorem tick_dt (s : State) : s.tick.dt = countDown s.dt := rfl
@[simp] theorem tick_st (s : State) : s.tick.st = countDown s.st := rfl
@[simp] theorem tick_op (s : State) : s.tick.op = s.op := rfl
@[simp] theorem tick_halted (s : State) : s.tick.halted = s.halted := rfl
@[simp] theorem tick_faultCause (s : State) : s.tick.faultCause = s.faultCause := rfl
@[simp] theorem tick_faultInfo (s : State) : s.tick.faultInfo = s.faultInfo := rfl
@[simp] theorem tick_soundActive (s : State) : s.tick.soundActive = decide (countDown s.st ≠ 0) := rfl
@[simp] theorem tick_keys (s : State) : s.tick.keys = s.keys := rfl
@[simp] theorem tick_agenda (s : State) : s.tick.agenda = s.agenda := rfl
@[simp] theorem tick_draws (s : State) : s.tick.draws = s.draws := rfl
@[simp] theorem tick_started (s : State) : s.tick.started = s.started := rfl

end Sys2Proof.Laws.State
end

