-- ==== Sys2Proof/Laws/Ops.lean ====
section
/-! SUPPORT. One lemma per shared operation that says everything it does: provers cite these and need not unfold the operation. -/

namespace Sys2Proof.Laws.Ops

open Sys2Proof Sys2Proof.Machine Sys2Proof.Laws.State

/-! Registers. -/

theorem getReg_eq_of_v {s t : State} (h : t.v = s.v) (r : RegNum) : t.getReg r = s.getReg r := by
  simp [State.getReg, h]

/-- A register read after a register write. -/
theorem getReg_setReg (s : State) (r q : RegNum) (b : Byte) :
    (s.setReg r b).getReg q = if q = r then b else s.getReg q := by
  by_cases h : q = r
  · subst h; simp [State.getReg, State.setReg]
  · have : r.toNat ≠ q.toNat := fun e => h (BitVec.eq_of_toNat_eq e.symm)
    simp [State.getReg, State.setReg, h, this]

@[simp] theorem getReg_setReg_same (s : State) (r : RegNum) (b : Byte) : (s.setReg r b).getReg r = b := by
  simp [getReg_setReg]

theorem getReg_setReg_other (s : State) {r q : RegNum} (b : Byte) (h : q ≠ r) : (s.setReg r b).getReg q = s.getReg q := by
  simp [getReg_setReg, h]

/-! Reads that see one field only. -/

theorem readByte_eq_of_mem {s t : State} (h : t.mem = s.mem) (a : Nat) : t.readByte a = s.readByte a := by
  simp [State.readByte, h]

theorem cell_eq_of_disp {s t : State} (h : t.disp = s.disp) (k : Nat) : t.cell k = s.cell k := by
  simp [State.cell, h]

theorem stackEntry_eq_of_stack {s t : State} (h : t.stack = s.stack) (k : Nat) : t.stackEntry k = s.stackEntry k := by
  simp [State.stackEntry, h]

/-! Memory through the state. -/

/-- A byte read after a byte write. -/
theorem readByte_writeByte (s : State) (a c : Nat) (b : Byte) :
    (s.writeByte a b).readByte c = if c = a then b else s.readByte c := Memory.read_after_write s.mem a c b

/-- Writing bytes changes memory only. -/
theorem writeBytes_frame (s : State) (a : Nat) (bs : List Byte) : ∃ m, s.writeBytes a bs = s.setMem m := by
  induction bs generalizing s a with
  | nil => exact ⟨s.mem, rfl⟩
  | cons b bs ih => obtain ⟨m, hm⟩ := ih (s.writeByte a b) (a + 1); exact ⟨m, hm⟩

/-- What a read finds after bytes were written at ascending addresses. -/
theorem readByte_writeBytes (s : State) (a c : Nat) (bs : List Byte) :
    (s.writeBytes a bs).readByte c = if a ≤ c then (bs[c - a]?).getD (s.readByte c) else s.readByte c := by
  induction bs generalizing s a with
  | nil => simp [State.writeBytes]
  | cons b bs ih =>
    rw [State.writeBytes, ih, readByte_writeByte]
    by_cases h1 : a + 1 ≤ c
    · have hne : c ≠ a := by omega
      have hle : a ≤ c := by omega
      obtain ⟨k, hk⟩ : ∃ k, c - a = k + 1 := ⟨c - a - 1, by omega⟩
      have hk' : c - (a + 1) = k := by omega
      simp [h1, hne, hle, hk, hk']
    · by_cases h2 : c = a
      · subst h2; simp
      · have : ¬ a ≤ c := by omega
        simp [h1, h2, this]

/-- Writing bytes inside the 4096 keeps the canonical form. -/
theorem wf_writeBytes (s : State) (a : Nat) (bs : List Byte) (h : s.mem.wf) (hb : a + bs.length ≤ 4096) :
    (s.writeBytes a bs).mem.wf := by
  induction bs generalizing s a with
  | nil => exact h
  | cons b bs ih =>
    simp only [List.length_cons] at hb
    exact ih (s.writeByte a b) (a + 1) (Memory.wf_write h (by omega)) (by omega)

/-- The bytes read at ascending addresses. -/
theorem readBytes_getElem? (s : State) (a n k : Nat) :
    (s.readBytes a n)[k]? = if k < n then some (s.readByte (a + k)) else none := by
  induction n generalizing a k with
  | zero => simp [State.readBytes]
  | succ n ih =>
    cases k with
    | zero => simp [State.readBytes]
    | succ k => simp [State.readBytes, ih, Nat.add_assoc, Nat.add_comm 1]

theorem readBytes_length (s : State) (a n : Nat) : (s.readBytes a n).length = n := by
  induction n generalizing a with
  | zero => rfl
  | succ n ih => simp [State.readBytes, ih]

/-- The block store changes memory only. -/
theorem storeFirst_frame (s : State) (base n : Nat) : ∃ m, s.storeFirst base n = s.setMem m := by
  induction n with
  | zero => exact ⟨s.mem, rfl⟩
  | succ n ih =>
    obtain ⟨m, hm⟩ := ih
    exact ⟨m.write (base + n) (s.getReg (BitVec.ofNat 4 n)), by rw [State.storeFirst, hm]; rfl⟩

/-- What a read finds after a block store: the registers in the block, what was there before elsewhere. -/
theorem readByte_storeFirst (s : State) (base n c : Nat) :
    (s.storeFirst base n).readByte c =
      if base ≤ c ∧ c < base + n then s.getReg (BitVec.ofNat 4 (c - base)) else s.readByte c := by
  induction n with
  | zero => have : ¬ (base ≤ c ∧ c < base + 0) := by omega
            rw [if_neg this]; rfl
  | succ n ih =>
    rw [State.storeFirst, readByte_writeByte, ih]
    by_cases h : c = base + n
    · subst h; simp
    · have : (base ≤ c ∧ c < base + n) ↔ (base ≤ c ∧ c < base + (n + 1)) := by omega
      simp [h, this]

theorem wf_storeFirst (s : State) (base n : Nat) (h : s.mem.wf) (hb : base + n ≤ 4096) : (s.storeFirst base n).mem.wf := by
  induction n with
  | zero => exact h
  | succ n ih => exact Memory.wf_write (ih (by omega)) (by omega)

/-- The block load changes the registers only. -/
theorem loadFirst_frame (s : State) (base n : Nat) : ∃ w, s.loadFirst base n = s.setV w := by
  induction n with
  | zero => exact ⟨s.v, rfl⟩
  | succ n ih =>
    obtain ⟨w, hw⟩ := ih
    exact ⟨w.set (BitVec.ofNat 4 n).toNat (s.readByte (base + n)) (BitVec.ofNat 4 n).isLt, by rw [State.loadFirst, hw]; rfl⟩

/-- The registers after a block load of at most sixteen. -/
theorem getReg_loadFirst (s : State) (base n : Nat) (hn : n ≤ 16) (r : RegNum) :
    (s.loadFirst base n).getReg r = if r.toNat < n then s.readByte (base + r.toNat) else s.getReg r := by
  induction n with
  | zero => simp [State.loadFirst]
  | succ n ih =>
    rw [State.loadFirst, getReg_setReg, ih (by omega)]
    by_cases h : r = BitVec.ofNat 4 n
    · have hr : r.toNat = n := by rw [h, BitVec.toNat_ofNat]; omega
      rw [if_pos h, if_pos (by omega), hr]
    · have hr : r.toNat ≠ n := fun e => h (BitVec.eq_of_toNat_eq (by rw [BitVec.toNat_ofNat]; omega))
      have : (r.toNat < n) ↔ (r.toNat < n + 1) := by omega
      simp [h, this]

/-! The return stack. -/

/-- The entries after a push: the new one at the old `sp`, all others as they were. -/
theorem stackEntry_push (s : State) (a : Word) (h : s.sp.val < 16) (k : Nat) :
    (s.push a h).stackEntry k = if k = s.sp.val then a else s.stackEntry k := by
  by_cases hk : k = s.sp.val
  · subst hk; simp [State.stackEntry, State.push, h]
  · simp [State.stackEntry, State.push, hk, Ne.symm hk]

/-- Whatever else a push leaves alone. -/
theorem push_frame (s : State) (a : Word) (h : s.sp.val < 16) :
    Frame (fun p => p = .sp ∨ p = .entry s.sp.val) s (s.push a h) := by
  intro p hp
  cases p with
  | entry k => exact (stackEntry_push s a h k).trans (by simp at hp; simp [hp])
  | sp => simp at hp
  | _ => rfl

/-! Bounds. -/

/-- When the bounds check fails, and with what information. -/
theorem memBounds_eq_some (s : State) (n : Nat) (w : Word) :
    s.memBounds n = some w ↔ (0 < n ∧ 4095 < s.i.toNat + (n - 1)) ∧ w = BitVec.ofNat 16 (max s.i.toNat 4096) := by
  unfold State.memBounds
  split <;> simp_all [eq_comm]

/-- When it passes. -/
theorem memBounds_eq_none (s : State) (n : Nat) :
    s.memBounds n = none ↔ (n = 0 ∨ s.i.toNat + (n - 1) ≤ 4095) := by
  unfold State.memBounds
  split <;> simp <;> omega

/-! Flags, digits and addresses as numbers. -/

theorem flagByte_eq (b : Bool) : flagByte b = if b then 1 else 0 := rfl

theorem absolute_toNat (nnn : BitVec 12) : (absolute nnn).toNat = nnn.toNat := by
  have := nnn.isLt
  simp only [absolute, BitVec.zeroExtend, BitVec.toNat_setWidth]; omega

theorem indexedTarget_toNat (s : State) (nnn : BitVec 12) :
    (s.indexedTarget nnn).toNat = nnn.toNat + (s.getReg 0).toNat := by
  have := nnn.isLt
  have := (s.getReg 0).isLt
  simp only [State.indexedTarget, BitVec.toNat_add, absolute_toNat, BitVec.zeroExtend, BitVec.toNat_setWidth]; omega

theorem glyphAddr_toNat (d : Byte) : (glyphAddr d).toNat = Config.fontBase.val + 5 * d.toNat := by
  have := d.isLt
  have := Config.fontBase.isLt
  simp only [glyphAddr, BitVec.toNat_ofNat]; omega

theorem hundreds_toNat (b : Byte) : (hundreds b).toNat = b.toNat / 100 := by
  have := b.isLt
  simp only [hundreds, BitVec.toNat_ofNat]; omega

theorem tens_toNat (b : Byte) : (tens b).toNat = b.toNat / 10 % 10 := by
  simp only [tens, BitVec.toNat_ofNat]; omega

theorem ones_toNat (b : Byte) : (ones b).toNat = b.toNat % 10 := by
  simp only [ones, BitVec.toNat_ofNat]; omega

theorem countDown_toNat (t : Byte) : (countDown t).toNat = t.toNat - 1 := by
  unfold countDown
  split
  · rename_i h
    have : t.toNat ≠ 0 := fun e => h (BitVec.eq_of_toNat_eq (by simpa using e))
    have := t.isLt
    have h1 : (1 : Byte).toNat = 1 := rfl
    rw [BitVec.toNat_sub, h1]; omega
  · simp_all

/-! Keys. -/

/-- The pressed keys are the codes below 16 whose level is down. -/
theorem mem_pressedKeys (s : State) (k : Byte) : k ∈ s.pressedKeys ↔ k.toNat < 16 ∧ s.keyDown k.toNat = true := by
  have hmem : ∀ k : Byte, k ∈ ([0x0, 0x1, 0x2, 0x3, 0x4, 0x5, 0x6, 0x7, 0x8, 0x9, 0xA, 0xB, 0xC, 0xD, 0xE, 0xF] : List Byte) ↔ k.toNat < 16 := by
    decide
  rw [State.pressedKeys, List.mem_filter, hmem]

/-- A chosen key is a pressed one; none is chosen exactly when none is pressed. -/
theorem chosenKey_spec (s : State) :
    (s.chosenKey = none ∧ s.pressedKeys = []) ∨ ∃ k, s.chosenKey = some k ∧ k ∈ s.pressedKeys := by
  unfold State.chosenKey
  rcases h : s.pressedKeys with _ | ⟨k, _ | ⟨l, ks⟩⟩
  · exact .inl ⟨rfl, rfl⟩
  · exact .inr ⟨k, rfl, by simp⟩
  · refine .inr ⟨_, rfl, ?_⟩
    have hlt : Config.keyChoice s.draws % ((l :: ks).length + 1) < (k :: l :: ks).length := Nat.mod_lt _ (by simp)
    rw [List.getD_eq_getElem _ _ hlt]
    exact List.getElem_mem hlt

/-! The display. -/

/-- One flip: the cell itself changes, no other does. -/
theorem getLsbD_flipCell (d : BitVec 2048) (k j : Nat) :
    (flipCell d k).getLsbD j = (d.getLsbD j ^^ (decide (j = k) && decide (k < 2048))) := by
  simp only [flipCell, BitVec.getLsbD_xor, BitVec.getLsbD_twoPow]
  by_cases h : j = k
  · simp [h]
  · simp [h, Ne.symm h]

/-- Cells that are pairwise different: each named cell is flipped once, and a hit means that one of them was on before. -/
theorem flipCells_spec (d : BitVec 2048) (ks : List Nat) (hit : Bool) (hk : ks.Nodup) (hlt : ∀ k ∈ ks, k < 2048) :
    (∀ j, (flipCells d ks hit).1.getLsbD j = (d.getLsbD j ^^ decide (j ∈ ks))) ∧
    (flipCells d ks hit).2 = (hit || ks.any d.getLsbD) := by
  induction ks generalizing d hit with
  | nil => simp [flipCells]
  | cons k ks ih =>
    obtain ⟨hn, hk⟩ := List.nodup_cons.1 hk
    obtain ⟨h1, h2⟩ := ih (flipCell d k) (hit || d.getLsbD k) hk fun x hx => hlt x (List.mem_cons_of_mem _ hx)
    have hk2 : k < 2048 := hlt k List.mem_cons_self
    constructor
    · intro j
      rw [flipCells, h1, getLsbD_flipCell]
      by_cases hj : j = k
      · subst hj; simp [hk2, hn]
      · simp [hj]
    · have hany : ks.any (flipCell d k).getLsbD = ks.any d.getLsbD := by
        rw [Bool.eq_iff_iff, List.any_eq_true, List.any_eq_true]
        have hsame : ∀ x ∈ ks, (flipCell d k).getLsbD x = d.getLsbD x := fun x hx => by
          have hne : x ≠ k := fun e => hn (e ▸ hx)
          simp [getLsbD_flipCell, hne]
        exact ⟨fun ⟨x, hx, h⟩ => ⟨x, hx, hsame x hx ▸ h⟩, fun ⟨x, hx, h⟩ => ⟨x, hx, (hsame x hx).symm ▸ h⟩⟩
      rw [flipCells, h2, hany]
      simp [Bool.or_assoc]

end Sys2Proof.Laws.Ops
end

