-- ==== Sys2Proof/Laws/Frame.lean ====
section
/-! SUPPORT. Frames compose, and each update of the state has its own: what it writes, and that it leaves every other part alone. -/

namespace Sys2Proof.Laws.Frame

open Sys2Proof Sys2Proof.Machine Sys2Proof.Laws.State Sys2Proof.Laws.Ops

theorem refl (W : Part → Prop) (s : State) : Machine.Frame W s s := by
  intro p _; cases p <;> rfl

theorem mono {W X : Part → Prop} {s t : State} (h : Machine.Frame W s t) (hW : ∀ p, W p → X p) : Machine.Frame X s t :=
  fun p hp => h p fun hw => hp (hW p hw)

theorem trans {W : Part → Prop} {s t u : State} (h : Machine.Frame W s t) (k : Machine.Frame W t u) : Machine.Frame W s u := by
  intro p hp
  have h1 := h p hp
  have h2 := k p hp
  cases p <;> exact h2.trans h1

theorem setReg (s : State) (r : RegNum) (b : Byte) : Machine.Frame (fun p => p = .reg r) s (s.setReg r b) := by
  intro p hp
  cases p with
  | reg q => exact getReg_setReg_other s b fun e => hp (congrArg Part.reg e)
  | _ => rfl

theorem setFlag (s : State) (f : Byte) : Machine.Frame (fun p => p = .reg flagReg) s (s.setFlag f) := setReg s flagReg f

theorem setPc (s : State) (a : Word) : Machine.Frame (fun p => p = .pc) s (s.setPc a) := by
  intro p hp; cases p <;> first | rfl | exact absurd rfl hp

theorem advance (s : State) : Machine.Frame (fun p => p = .pc) s s.advance := setPc s _

theorem skipIf (s : State) (c : Bool) : Machine.Frame (fun p => p = .pc) s (s.skipIf c) := setPc s _

theorem setI (s : State) (a : Word) : Machine.Frame (fun p => p = .i) s (s.setI a) := by
  intro p hp; cases p <;> first | rfl | exact absurd rfl hp

theorem setSp (s : State) (a : Fin 17) : Machine.Frame (fun p => p = .sp) s (s.setSp a) := by
  intro p hp; cases p <;> first | rfl | exact absurd rfl hp

theorem setRender (s : State) (a : Bool) : Machine.Frame (fun p => p = .render) s (s.setRender a) := by
  intro p hp; cases p <;> first | rfl | exact absurd rfl hp

theorem setDt (s : State) (a : Byte) : Machine.Frame (fun p => p = .dt) s (s.setDt a) := by
  intro p hp; cases p <;> first | rfl | exact absurd rfl hp

theorem setSt (s : State) (a : Byte) : Machine.Frame (fun p => p = .st) s (s.setSt a) := by
  intro p hp; cases p <;> first | rfl | exact absurd rfl hp

theorem setSoundActive (s : State) (a : Bool) : Machine.Frame (fun p => p = .soundActive) s (s.setSoundActive a) := by
  intro p hp; cases p <;> first | rfl | exact absurd rfl hp

theorem setKeys (s : State) (a : BitVec 16) : Machine.Frame (fun p => p = .keys) s (s.setKeys a) := by
  intro p hp; cases p <;> first | rfl | exact absurd rfl hp

theorem setAgenda (s : State) (a : List Move) : Machine.Frame (fun p => p = .agenda) s (s.setAgenda a) := by
  intro p hp; cases p <;> first | rfl | exact absurd rfl hp

theorem nextDraw (s : State) : Machine.Frame (fun p => p = .draws) s s.nextDraw := by
  intro p hp; cases p <;> first | rfl | exact absurd rfl hp

/-- The display: every cell outside `ks` is as it was. -/
theorem setDisp (s : State) (d : BitVec 2048) (ks : Nat → Prop) (h : ∀ k, ¬ ks k → d.getLsbD k = s.disp.getLsbD k) :
    Machine.Frame (fun p => ∃ k, p = .cell k ∧ ks k) s (s.setDisp d) := by
  intro p hp
  cases p with
  | cell k => exact h k fun hk => hp ⟨k, rfl, hk⟩
  | _ => rfl

/-- Memory: every byte outside `as` is as it was. -/
theorem setMem (s : State) (m : Memory) (as : Nat → Prop) (h : ∀ a, ¬ as a → m.read a = s.mem.read a) :
    Machine.Frame (fun p => ∃ a, p = .byte a ∧ as a) s (s.setMem m) := by
  intro p hp
  cases p with
  | byte a => exact h a fun ha => hp ⟨a, rfl, ha⟩
  | _ => rfl

/-- The registers: every one outside `rs` is as it was. -/
theorem setV (s : State) (w : Vector Byte 16) (rs : RegNum → Prop) (h : ∀ r, ¬ rs r → (s.setV w).getReg r = s.getReg r) :
    Machine.Frame (fun p => ∃ r, p = .reg r ∧ rs r) s (s.setV w) := by
  intro p hp
  cases p with
  | reg r => exact h r fun hr => hp ⟨r, rfl, hr⟩
  | _ => rfl

theorem writeByte (s : State) (a : Nat) (b : Byte) : Machine.Frame (fun p => ∃ c, p = .byte c ∧ c = a) s (s.writeByte a b) := by
  refine setMem s _ (· = a) fun c hc => ?_
  simp [Memory.read_after_write, hc]

theorem writeBytes (s : State) (a : Nat) (bs : List Byte) :
    Machine.Frame (fun p => ∃ c, p = .byte c ∧ a ≤ c ∧ c < a + bs.length) s (s.writeBytes a bs) := by
  obtain ⟨m, hm⟩ := writeBytes_frame s a bs
  have hr := readByte_writeBytes s a (bs := bs)
  rw [hm] at hr ⊢
  refine setMem s m (fun c => a ≤ c ∧ c < a + bs.length) fun c hc => ?_
  have := hr c
  change (s.setMem m).readByte c = s.readByte c
  by_cases h : a ≤ c
  · have hlen : bs.length ≤ c - a := by omega
    simpa [h, List.getElem?_eq_none hlen] using this
  · simpa [h] using this

theorem storeFirst (s : State) (base n : Nat) :
    Machine.Frame (fun p => ∃ a, p = .byte a ∧ base ≤ a ∧ a < base + n) s (s.storeFirst base n) := by
  obtain ⟨m, hm⟩ := storeFirst_frame s base n
  have hr := readByte_storeFirst s base n
  rw [hm] at hr ⊢
  refine setMem s m (fun a => base ≤ a ∧ a < base + n) fun a ha => ?_
  have := hr a
  rwa [if_neg ha] at this

theorem loadFirst (s : State) (base n : Nat) (hn : n ≤ 16) :
    Machine.Frame (fun p => ∃ r, p = .reg r ∧ r.toNat < n) s (s.loadFirst base n) := by
  obtain ⟨w, hw⟩ := loadFirst_frame s base n
  have hr := getReg_loadFirst s base n hn
  rw [hw] at hr ⊢
  refine setV s w (fun r => r.toNat < n) fun r h => ?_
  have := hr r
  rwa [if_neg h] at this

end Sys2Proof.Laws.Frame
end

