-- ==== Sys2Proof/Laws/PerInstr.lean ====
section
/-! SUPPORT. Laws of every instruction as syntax, one lemma per constructor. Family WordInRow: an instruction's word lies in its row of
the opcode map (30_encoding.md R57), whatever its operands. -/

namespace Sys2Proof.Laws.WordInRow

open Sys2Proof Sys2Proof.Laws.Encoding

/-- The word of the instruction has the fixed bits of its row. -/
def Statement (i : Instr) : Prop := i.row.covers (encodeWord i) = true

theorem covers_of_bits {r : Row} {w : Word} (h : ∀ k, k < 16 → (w.getLsbD k && r.mask.getLsbD k) = r.value.getLsbD k) :
    r.covers w = true := by
  simp only [Row.covers, beq_iff_eq]
  exact BitVec.eq_of_getLsbD_eq fun k hk => (BitVec.getLsbD_and ..).trans (h k hk)

/-- Format NNN. -/
theorem covers_nnn {r : Row} (g : BitVec 4) (nnn : BitVec 12) (hv : r.value = g ++ 0#12) (hm : r.mask = 0xF000) :
    r.covers (g ++ nnn) = true := by
  refine covers_of_bits fun k hk => ?_
  rw [hv, hm, bit_nnn, bit_nnn]
  interval_cases k <;> simp

/-- Format XKK. -/
theorem covers_xkk {r : Row} (g x : BitVec 4) (kk : Byte) (hv : r.value = g ++ 0#4 ++ 0#8) (hm : r.mask = 0xF000) :
    r.covers (g ++ x ++ kk) = true := by
  refine covers_of_bits fun k hk => ?_
  rw [hv, hm, bit_xkk, bit_xkk]
  interval_cases k <;> simp

/-- Format XSS: the low byte is fixed too. -/
theorem covers_xss {r : Row} (g x : BitVec 4) (ss : Byte) (hv : r.value = g ++ 0#4 ++ ss) (hm : r.mask = 0xF0FF) :
    r.covers (g ++ x ++ ss) = true := by
  refine covers_of_bits fun k hk => ?_
  rw [hv, hm, bit_xkk, bit_xkk]
  interval_cases k <;> simp

/-- Format XYS: the low nibble is fixed too. -/
theorem covers_xys {r : Row} (g x y n : BitVec 4) (hv : r.value = g ++ 0#4 ++ 0#4 ++ n) (hm : r.mask = 0xF00F) :
    r.covers (g ++ x ++ y ++ n) = true := by
  refine covers_of_bits fun k hk => ?_
  rw [hv, hm, bit_xyn, bit_xyn]
  interval_cases k <;> simp

/-- Format XYN. -/
theorem covers_xyn {r : Row} (g x y n : BitVec 4) (hv : r.value = g ++ 0#4 ++ 0#4 ++ 0#4) (hm : r.mask = 0xF000) :
    r.covers (g ++ x ++ y ++ n) = true := by
  refine covers_of_bits fun k hk => ?_
  rw [hv, hm, bit_xyn, bit_xyn]
  interval_cases k <;> simp

theorem cls : Statement .cls := by
  unfold Statement; decide

theorem ret : Statement .ret := by
  unfold Statement; decide

theorem sys (nnn : BitVec 12) : Statement (.sys nnn) := covers_nnn _ _ rfl rfl

theorem jp (nnn : BitVec 12) : Statement (.jp nnn) := covers_nnn _ _ rfl rfl

theorem call (nnn : BitVec 12) : Statement (.call nnn) := covers_nnn _ _ rfl rfl

theorem seImm (x : RegNum) (kk : Byte) : Statement (.seImm x kk) := covers_xkk _ _ _ rfl rfl

theorem sneImm (x : RegNum) (kk : Byte) : Statement (.sneImm x kk) := covers_xkk _ _ _ rfl rfl

theorem seReg (x y : RegNum) : Statement (.seReg x y) := covers_xys _ _ _ _ rfl rfl

theorem ldImm (x : RegNum) (kk : Byte) : Statement (.ldImm x kk) := covers_xkk _ _ _ rfl rfl

theorem addImm (x : RegNum) (kk : Byte) : Statement (.addImm x kk) := covers_xkk _ _ _ rfl rfl

theorem ldReg (x y : RegNum) : Statement (.ldReg x y) := covers_xys _ _ _ _ rfl rfl

theorem orReg (x y : RegNum) : Statement (.orReg x y) := covers_xys _ _ _ _ rfl rfl

theorem andReg (x y : RegNum) : Statement (.andReg x y) := covers_xys _ _ _ _ rfl rfl

theorem xorReg (x y : RegNum) : Statement (.xorReg x y) := covers_xys _ _ _ _ rfl rfl

theorem addReg (x y : RegNum) : Statement (.addReg x y) := covers_xys _ _ _ _ rfl rfl

theorem sub (x y : RegNum) : Statement (.sub x y) := covers_xys _ _ _ _ rfl rfl

theorem shr (x y : RegNum) : Statement (.shr x y) := covers_xys _ _ _ _ rfl rfl

theorem subn (x y : RegNum) : Statement (.subn x y) := covers_xys _ _ _ _ rfl rfl

theorem shl (x y : RegNum) : Statement (.shl x y) := covers_xys _ _ _ _ rfl rfl

theorem sneReg (x y : RegNum) : Statement (.sneReg x y) := covers_xys _ _ _ _ rfl rfl

theorem ldI (nnn : BitVec 12) : Statement (.ldI nnn) := covers_nnn _ _ rfl rfl

theorem jpV0 (nnn : BitVec 12) : Statement (.jpV0 nnn) := covers_nnn _ _ rfl rfl

theorem rnd (x : RegNum) (kk : Byte) : Statement (.rnd x kk) := covers_xkk _ _ _ rfl rfl

theorem drw (x y : RegNum) (n : BitVec 4) : Statement (.drw x y n) := covers_xyn _ _ _ _ rfl rfl

theorem skp (x : RegNum) : Statement (.skp x) := covers_xss _ _ _ rfl rfl

theorem sknp (x : RegNum) : Statement (.sknp x) := covers_xss _ _ _ rfl rfl

theorem ldVxDt (x : RegNum) : Statement (.ldVxDt x) := covers_xss _ _ _ rfl rfl

theorem ldVxK (x : RegNum) : Statement (.ldVxK x) := covers_xss _ _ _ rfl rfl

theorem ldDtVx (x : RegNum) : Statement (.ldDtVx x) := covers_xss _ _ _ rfl rfl

theorem ldStVx (x : RegNum) : Statement (.ldStVx x) := covers_xss _ _ _ rfl rfl

theorem addI (x : RegNum) : Statement (.addI x) := covers_xss _ _ _ rfl rfl

theorem ldF (x : RegNum) : Statement (.ldF x) := covers_xss _ _ _ rfl rfl

theorem ldB (x : RegNum) : Statement (.ldB x) := covers_xss _ _ _ rfl rfl

theorem storeRegs (x : RegNum) : Statement (.storeRegs x) := covers_xss _ _ _ rfl rfl

theorem loadRegs (x : RegNum) : Statement (.loadRegs x) := covers_xss _ _ _ rfl rfl

end Sys2Proof.Laws.WordInRow
end

