-- ==== Sys2Proof/Laws/Sprite.lean ====
section
/-! SUPPORT. The cells of a sprite: the list the drawing operation walks names exactly the targets of 44_display.md R100 and R101, each
once, rows before bits. -/

namespace Sys2Proof.Laws.Sprite

open Sys2Proof Sys2Proof.Machine Sys2Proof.Laws.Ops

/-- The cells of one row. -/
theorem mem_rowCells (col row : Nat) (b : Byte) (k : Nat) :
    k ∈ rowCells col row b ↔ ∃ bit, bit < 8 ∧ b.getLsbD (7 - bit) = true ∧ k = (col + bit) + 64 * row := by
  have hmem : ∀ bit : Nat, bit ∈ [0, 1, 2, 3, 4, 5, 6, 7] ↔ bit < 8 := by
    intro bit; simp only [List.mem_cons, List.not_mem_nil, or_false]; omega
  simp only [rowCells, List.mem_filterMap, hmem, cellIndex, Config.displayColumns]
  constructor
  · rintro ⟨bit, hb, h⟩
    by_cases hs : b.getLsbD (7 - bit) = true
    · rw [if_pos hs, Option.some.injEq] at h; exact ⟨bit, hb, hs, h.symm⟩
    · rw [if_neg hs] at h; cases h
  · rintro ⟨bit, hb, hs, rfl⟩
    exact ⟨bit, hb, by rw [if_pos hs]⟩

/-- The cells of a sprite are those under its set bits. -/
theorem mem_spriteCells (col row : Nat) (bs : List Byte) (k : Nat) :
    k ∈ spriteCells col row bs ↔
      ∃ j bit b, bs[j]? = some b ∧ bit < 8 ∧ b.getLsbD (7 - bit) = true ∧ k = (col + bit) + 64 * (row + j) := by
  induction bs generalizing row with
  | nil => simp [spriteCells]
  | cons b bs ih =>
    rw [spriteCells, List.mem_append, mem_rowCells, ih]
    constructor
    · rintro (⟨bit, hb, hs, hk⟩ | ⟨j, bit, c, hj, hb, hs, hk⟩)
      · exact ⟨0, bit, b, rfl, hb, hs, by simpa using hk⟩
      · exact ⟨j + 1, bit, c, by simpa using hj, hb, hs, by omega⟩
    · rintro ⟨_ | j, bit, c, hj, hb, hs, hk⟩
      · simp only [List.getElem?_cons_zero, Option.some.injEq] at hj
        subst hj; exact .inl ⟨bit, hb, hs, by simpa using hk⟩
      · exact .inr ⟨j, bit, c, by simpa using hj, hb, hs, by omega⟩

/-- No cell of a row is named twice. -/
theorem nodup_rowCells (col row : Nat) (b : Byte) : (rowCells col row b).Nodup := by
  refine List.Nodup.filterMap ?_ (by decide)
  intro i j k hi hj
  simp only [cellIndex, Option.mem_def] at hi hj
  split at hi <;> split at hj <;> simp_all
  omega

/-- "The cells touched by one `Dxyn` are pairwise distinct" (R100). -/
theorem nodup_spriteCells (col row : Nat) (bs : List Byte) : (spriteCells col row bs).Nodup := by
  induction bs generalizing row with
  | nil => simp [spriteCells]
  | cons b bs ih =>
    refine List.Nodup.append (nodup_rowCells col row b) (ih (row + 1)) fun k hk hk' => ?_
    obtain ⟨bit, hb, -, h⟩ := (mem_rowCells ..).1 hk
    obtain ⟨j, bit', c, -, hb', -, h'⟩ := (mem_spriteCells ..).1 hk'
    omega

/-- The list a draw walks names exactly the targets. -/
theorem mem_drawTargets (s : State) (x y : RegNum) (n : BitVec 4) (k : Nat) :
    k ∈ s.drawTargets x y n ↔ s.spriteTarget x y n k := by
  simp only [State.drawTargets, mem_spriteCells, readBytes_getElem?, State.spriteTarget, State.spriteBit, State.spriteIndex,
    State.dataAddr, Nat.add_zero]
  constructor
  · rintro ⟨j, bit, b, hj, hb, hs, hk⟩
    split at hj
    · rename_i hjn
      simp only [Option.some.injEq] at hj
      exact ⟨j, bit, hjn, hb, hj ▸ hs, hk⟩
    · cases hj
  · rintro ⟨row, bit, hr, hb, hs, hk⟩
    exact ⟨row, bit, _, by rw [if_pos hr], hb, hs, hk⟩

theorem nodup_drawTargets (s : State) (x y : RegNum) (n : BitVec 4) : (s.drawTargets x y n).Nodup :=
  nodup_spriteCells ..

/-- The display check passes exactly when every target is on the display. -/
theorem displayBounds_eq_none (cells : List Nat) : displayBounds cells = none ↔ ∀ k ∈ cells, k < 2048 := by
  simp [displayBounds, Nat.lt_succ_iff]

end Sys2Proof.Laws.Sprite
end

