-- ==== Sys2Proof/Laws/Step.lean ====
section
/-! SUPPORT. What one step can do, said once: which move it performs, and the outcomes of the Execute step. -/

namespace Sys2Proof.Laws.Step

open Sys2Proof Sys2Proof.Machine

/-- A step performs the next move on the state with that move taken off the schedule. -/
theorem step_of_nextMove {s : State} {m : Move} (h : s.nextMove = m) : step s = perform m (s.setAgenda s.agenda.tail) := by
  rw [step, h, State.takeMove]

/-- A run whose first step has a next state goes on from that state. -/
theorem run_succ {s t : State} (h : step s = .next t) (n : Nat) : Host.Core.run core (n + 1) s = Host.Core.run core n t := by
  have h' : core.step s = .next t := h
  simp only [Host.Core.run, h']

/-- Of a run of `n + 1` steps that has a next state, the first step has one, and the rest runs from there. -/
theorem run_succ_cases {n : Nat} {s u : State} (h : Host.Core.run core (n + 1) s = .next u) :
    ∃ t, step s = .next t ∧ Host.Core.run core n t = .next u := by
  simp only [Host.Core.run] at h
  split at h
  · rename_i t ht; exact ⟨t, ht, h⟩
  · cases h
  · cases h

/-- The outcomes of an Execute step that has a next state. -/
theorem executeStep_cases {s t : State} (h : executeStep s = .next t) :
    s.halted = false ∧
      ((4094 < s.pc.toNat ∧ t = (s.setStarted true).raise .fetchBounds s.pc) ∨
       (s.pc.toNat ≤ 4094 ∧ decodeWord s.fetchWord = none ∧ t = s.fetched.raise .illegalOpcode s.fetchWord) ∨
       (s.pc.toNat ≤ 4094 ∧ ∃ i, decodeWord s.fetchWord = some i ∧ exec i s.fetched = .next t)) := by
  unfold executeStep at h
  by_cases hh : s.halted = true
  · simp [hh] at h
  · refine ⟨by simpa using hh, ?_⟩
    simp only [hh, if_false, Bool.false_eq_true] at h
    by_cases hf : s.pc.toNat ≤ 4094
    · simp only [State.fetchable, hf, decide_true, if_true] at h
      right
      cases hd : decodeWord s.fetchWord with
      | none => rw [hd] at h; exact .inl ⟨hf, rfl, by cases h; rfl⟩
      | some i => rw [hd] at h; exact .inr ⟨hf, i, rfl, h⟩
    · simp only [State.fetchable, hf, decide_false, if_false, Bool.false_eq_true] at h
      exact .inl ⟨by omega, by cases h; rfl⟩

/-- The Execute step of a running core on a decodable word. -/
theorem executeStep_of_decode {s : State} {i : Instr} (hh : s.halted = false) (hp : s.pc.toNat ≤ 4094)
    (hd : decodeWord s.fetchWord = some i) : executeStep s = exec i s.fetched := by
  simp [executeStep, hh, State.fetchable, hp, hd]

/-- The moves that are no Execute step: what a next state is. -/
theorem perform_cases {m : Move} {s t : State} (h : perform m s = .next t) :
    (m = .execute ∧ executeStep s = .next t) ∨
    (m = .tick ∧ s.halted = false ∧ t = s.tick) ∨
    (∃ k down, m = .setKey k down ∧ ∃ a, t = s.setKeys a) ∨
    (m = .ackRender ∧ t = s.setRender false) ∨
    (∃ bytes, m = .loadProgram bytes ∧ s.started = false ∧ bytes.length ≤ 3584 ∧ t = s.writeBytes 0x200 bytes) ∨
    (m = .reset ∧ t = s.hostReset) := by
  cases m with
  | execute => exact .inl ⟨rfl, h⟩
  | tick =>
    simp only [perform, moveTick] at h
    by_cases hh : s.halted = true
    · simp [hh] at h
    · simp only [hh, if_false, Bool.false_eq_true] at h
      exact .inr (.inl ⟨rfl, by simpa using hh, by cases h; rfl⟩)
  | setKey k down => exact .inr (.inr (.inl ⟨k, down, rfl, _, by cases h; rfl⟩))
  | ackRender => exact .inr (.inr (.inr (.inl ⟨rfl, by cases h; rfl⟩)))
  | loadProgram bytes =>
    simp only [perform, moveLoadProgram] at h
    by_cases hs : s.started = true
    · simp [hs] at h
    · by_cases hb : bytes.length > Config.romMax
      · simp [hs, hb] at h
      · simp only [hs, hb, if_false, Bool.false_eq_true] at h
        exact .inr (.inr (.inr (.inr (.inl ⟨bytes, rfl, by simpa using hs, Nat.not_lt.1 hb, by cases h; rfl⟩))))
  | reset => exact .inr (.inr (.inr (.inr (.inr ⟨rfl, by cases h; rfl⟩))))

end Sys2Proof.Laws.Step
end

