-- ==== Sys2Proof/Tests/Slice0.lean ====
section
/-! SUPPORT. Tests on fixed values, each expected value taken from spec/95_test_vectors.md or worked out by hand from the rule named,
and the witnesses that the hypotheses of the statements can be met. -/

namespace Sys2Proof.Tests

open Sys2Proof Sys2Proof.Machine

/-! Well-formedness: the one check, on each word it refuses and on its neighbours (R55, R62). -/

theorem test_wellFormed_refuses_cls_word : Instr.wellFormed (.sys 0x0E0) = false := by decide
theorem test_wellFormed_refuses_ret_word : Instr.wellFormed (.sys 0x0EE) = false := by decide
theorem test_wellFormed_accepts_sys : Instr.wellFormed (.sys 0x0E1) = true ∧ Instr.wellFormed (.sys 0x1E0) = true := by decide

/-! Decoding: every constructor by a word of 95_test_vectors.md 2.1, written out in the fields of its format (R52). -/

theorem test_decode_group0 :
    decodeWord 0b0000000011100000 = some .cls ∧ decodeWord 0b0000000011101110 = some .ret ∧
    decodeWord 0b0000000011100001 = some (.sys 0x0E1) ∧ decodeWord 0b0000000111100000 = some (.sys 0x1E0) ∧
    decodeWord 0b0000000000000000 = some (.sys 0x000) := by decide

theorem test_decode_addresses :
    decodeWord 0b0001101010111100 = some (.jp 0xABC) ∧ decodeWord 0b0010101010111100 = some (.call 0xABC) ∧
    decodeWord 0b1010101010111100 = some (.ldI 0xABC) ∧ decodeWord 0b1011101010111100 = some (.jpV0 0xABC) := by decide

theorem test_decode_immediates :
    decodeWord 0b0011101000010010 = some (.seImm 0xA 0x12) ∧ decodeWord 0b0100101000010010 = some (.sneImm 0xA 0x12) ∧
    decodeWord 0b0110101000010010 = some (.ldImm 0xA 0x12) ∧ decodeWord 0b0111101000010010 = some (.addImm 0xA 0x12) ∧
    decodeWord 0b1100101000001111 = some (.rnd 0xA 0x0F) := by decide

theorem test_decode_group8 :
    decodeWord 0b1000101010110000 = some (.ldReg 0xA 0xB) ∧ decodeWord 0b1000101010110001 = some (.orReg 0xA 0xB) ∧
    decodeWord 0b1000101010110010 = some (.andReg 0xA 0xB) ∧ decodeWord 0b1000101010110011 = some (.xorReg 0xA 0xB) ∧
    decodeWord 0b1000101010110100 = some (.addReg 0xA 0xB) ∧ decodeWord 0b1000101010110101 = some (.sub 0xA 0xB) ∧
    decodeWord 0b1000101010110110 = some (.shr 0xA 0xB) ∧ decodeWord 0b1000101010110111 = some (.subn 0xA 0xB) ∧
    decodeWord 0b1000101010111110 = some (.shl 0xA 0xB) := by decide

theorem test_decode_registers :
    decodeWord 0b0101101010110000 = some (.seReg 0xA 0xB) ∧ decodeWord 0b1001101010110000 = some (.sneReg 0xA 0xB) ∧
    decodeWord 0b1101000100100011 = some (.drw 1 2 3) ∧ decodeWord 0b1101000100100000 = some (.drw 1 2 0) := by decide

theorem test_decode_groupE :
    decodeWord 0b1110000110011110 = some (.skp 1) ∧ decodeWord 0b1110000110100001 = some (.sknp 1) := by decide

theorem test_decode_groupF :
    decodeWord 0b1111000100000111 = some (.ldVxDt 1) ∧ decodeWord 0b1111000100001010 = some (.ldVxK 1) ∧
    decodeWord 0b1111000100010101 = some (.ldDtVx 1) ∧ decodeWord 0b1111000100011000 = some (.ldStVx 1) ∧
    decodeWord 0b1111000100011110 = some (.addI 1) ∧ decodeWord 0b1111000100101001 = some (.ldF 1) ∧
    decodeWord 0b1111000100110011 = some (.ldB 1) ∧ decodeWord 0b1111000101010101 = some (.storeRegs 1) ∧
    decodeWord 0b1111000101100101 = some (.loadRegs 1) := by decide

theorem test_decode_illegal_words :
    (([0x5AB1, 0x8AB8, 0x8AB9, 0x8ABA, 0x8ABB, 0x8ABC, 0x8ABD, 0x8ABF, 0x9ABF, 0xE19F, 0xE100, 0xE1FE] ++
      [0xF100, 0xF1FF, 0xF130, 0xF175, 0xF185, 0xF117] : List Word).all illegalWord) = true := by decide

/-- The assembled words of 95_test_vectors.md 2.1 and the bytes in memory order (R35). -/
theorem test_encode :
    encodeWord (.call 0x20E) = 0x220E ∧ encodeWord (.seReg 3 4) = 0x5340 ∧ encodeWord (.drw 0 1 2) = 0xD012 ∧
    encodeWord (.storeRegs 5) = 0xF555 ∧ encode (.call 0x20E) = [0x22, 0x0E] := by decide

theorem test_decode_bytes :
    decode [0x60, 0x0A, 0x61] = .ok (.ldImm 0 0x0A, [0x61]) ∧ decode [0x60] = .error .truncated ∧
    decode [0x5A, 0xB1] = .error (.illegalOpcode 0x5AB1) := ⟨rfl, rfl, rfl⟩

theorem test_decodeTableWord :
    decodeTableWord 16 0x8AB6 = some (.shr 0xA 0xB) ∧ decodeTableWord 16 0x5AB1 = none := by decide

/-! Small states, and the state one step after an instruction word is placed at `pc`. -/

/-- The reset state with the registers of the list set. -/
def regs (l : List (RegNum × Byte)) : State := l.foldl (fun s p => s.setReg p.1 p.2) State.reset

/-- The state with the cells of the list on. -/
def lit (s : State) (l : List Nat) : State := s.setDisp (l.foldl flipCell 0)

/-- The state a step goes to, if it has a next state. -/
def next? : Host.Outcome State Fault Refusal → Option State
  | .next t => some t
  | .fault _ => none
  | .refused _ => none

/-- The state after one step from `s` with the word placed at `pc`. -/
def ran (s : State) (w : Nat) : Option State := next? (step (s.withFetchWord 16 w))

/-- The state after one step with the given move first in the schedule. -/
def moved (s : State) (m : Move) : Option State := next? (step (s.setAgenda [m]))

/-- The fault latch and `pc`. -/
def latch (t : State) : Bool × BitVec 3 × Word × Word := (t.halted, t.faultCause, t.faultInfo, t.pc)

/-- The cells of the list, as levels. -/
def cells (l : List Nat) (t : State) : List Bool := l.map t.cell

/-! Control transfer (F1 to F14). -/

theorem test_jp : (ran .reset 0x1FFF).map (·.pc) = some 0xFFF := by decide
theorem test_call : (ran (State.reset.setSp 15) 0x2300).map (fun t => (t.stackEntry 15, t.sp, t.pc)) = some (0x200, 16, 0x300) := by decide
theorem test_call_full : (ran (State.reset.setSp 16) 0x2300).map latch = some (true, 3, 0x200, 0x200) := by decide
theorem test_ret :
    (ran ((State.reset.push 0x204 (by decide)).setPc 0x20E) 0x00EE).map (fun t => (t.sp, t.pc, t.stackEntry 0)) = some (0, 0x206, 0x204) := by
  decide
theorem test_ret_empty : (ran .reset 0x00EE).map latch = some (true, 4, 0x200, 0x200) := by decide
theorem test_jpV0 : (ran (regs [(0, 0xFF), (15, 7)]) 0xBFFF).map (·.pc) = some 0x10FE := by decide
theorem test_jpV0_is_v0 : (ran (regs [(0, 0x02), (3, 0x77)]) 0xB300).map (·.pc) = some 0x302 := by decide
theorem test_sys : (ran (State.reset.setPc 0x300) 0x0000).map latch = some (false, 0, 0, 0x300) := by decide

/-! Skips (K1 to K17). -/

theorem test_seImm : (ran (regs [(3, 0x2A)]) 0x332A).map (·.pc) = some 0x204 ∧ (ran (regs [(3, 0x2A)]) 0x332B).map (·.pc) = some 0x202 := by
  decide
theorem test_sneImm : (ran (regs [(3, 0x2A)]) 0x432A).map (·.pc) = some 0x202 ∧ (ran (regs [(3, 0x2A)]) 0x4300).map (·.pc) = some 0x204 := by
  decide
theorem test_seReg :
    (ran (regs [(1, 7), (2, 7)]) 0x5120).map (·.pc) = some 0x204 ∧ (ran (regs [(1, 7), (2, 8)]) 0x5120).map (·.pc) = some 0x202 := by
  decide
theorem test_sneReg : (ran (regs [(1, 7), (2, 8)]) 0x9120).map (·.pc) = some 0x204 ∧ (ran .reset 0x9440).map (·.pc) = some 0x202 := by
  decide
theorem test_skip_at_last_word : (ran (State.reset.setPc 0xFFE) 0x3000).map (·.pc) = some 0x1002 := by decide
theorem test_skp :
    (ran ((regs [(1, 5)]).setKeys 0x20) 0xE19E).map (·.pc) = some 0x204 ∧ (ran (regs [(1, 5)]) 0xE19E).map (·.pc) = some 0x202 := by decide
theorem test_skp_range : (ran (regs [(1, 0x10)]) 0xE19E).map latch = some (true, 7, 0x0010, 0x200) := by decide
theorem test_sknp :
    (ran (regs [(1, 5)]) 0xE1A1).map (·.pc) = some 0x204 ∧ (ran ((regs [(1, 5)]).setKeys 0x20) 0xE1A1).map (·.pc) = some 0x202 := by decide
theorem test_sknp_range : (ran ((regs [(1, 0x15)]).setKeys 0x20) 0xE1A1).map latch = some (true, 7, 0x0015, 0x200) := by decide

/-! Load, arithmetic, logic, shifts, random (A1 to A46). -/

/-- Two registers and `pc` after a step. -/
def regsAfter (l : List (RegNum × Byte)) (w : Nat) (x y : RegNum) : Option (Byte × Byte × Word) :=
  (ran (regs l) w).map fun t => (t.getReg x, t.getReg y, t.pc)

theorem test_ldImm : regsAfter [(15, 0x55)] 0x600A 0 15 = some (0x0A, 0x55, 0x202) := by decide
theorem test_addImm : regsAfter [(2, 0xF0), (15, 0x55)] 0x7220 2 15 = some (0x10, 0x55, 0x202) := by decide
theorem test_ldReg : regsAfter [(4, 0x77)] 0x8340 3 4 = some (0x77, 0x77, 0x202) := by decide
theorem test_orReg : regsAfter [(1, 0xF0), (2, 0x0F), (15, 0x55)] 0x8121 1 15 = some (0xFF, 0x55, 0x202) := by decide
theorem test_andReg : regsAfter [(1, 0xF3), (2, 0x3C)] 0x8122 1 2 = some (0x30, 0x3C, 0x202) := by decide
theorem test_xorReg : regsAfter [(1, 0xFF), (2, 0x0F)] 0x8123 1 2 = some (0xF0, 0x0F, 0x202) := by decide
theorem test_addReg_carry : regsAfter [(0, 0x80), (1, 0x80)] 0x8014 0 15 = some (0x00, 1, 0x202) := by decide
theorem test_addReg_vf : regsAfter [(15, 0x01), (2, 0xFF)] 0x82F4 2 15 = some (0x00, 1, 0x202) := by decide
theorem test_sub_equal : regsAfter [(1, 7), (2, 7)] 0x8125 1 15 = some (0, 0, 0x202) := by decide
theorem test_sub_vf : regsAfter [(15, 9), (1, 4)] 0x8F15 15 1 = some (0xFD, 4, 0x202) := by decide
theorem test_shr : regsAfter [(1, 0x05), (2, 0xAA)] 0x8126 1 15 = some (0x02, 1, 0x202) := by decide
theorem test_shr_vf : regsAfter [(15, 0x03)] 0x8F06 15 0 = some (0, 0, 0x202) := by decide
theorem test_subn : regsAfter [(1, 5), (2, 3)] 0x8127 1 15 = some (254, 0, 0x202) := by decide
theorem test_subn_vf : regsAfter [(2, 3), (15, 9)] 0x82F7 2 15 = some (254, 1, 0x202) := by decide
theorem test_shl : regsAfter [(1, 0x81), (2, 0x55)] 0x812E 1 15 = some (0x02, 1, 0x202) := by decide
theorem test_shl_vf : regsAfter [(15, 0xC0)] 0x8F0E 15 0 = some (0x02, 0, 0x202) := by decide
/-- A46: with the mask 0xFF the register holds the draw itself, whatever it is. -/
theorem test_rnd : (ran .reset 0xC3FF).map (·.draws) = some 1 := by decide

/-! Index register and memory (M1 to M26). -/

theorem test_ldI : (ran .reset 0xA300).map (fun t => (t.i, t.pc)) = some (0x300, 0x202) := by decide
theorem test_addI_no_flag : (ran ((regs [(0, 1), (15, 0x55)]).setI 0xFFF) 0xF01E).map (fun t => (t.i, t.vf)) = some (0x1000, 0x55) := by decide
theorem test_addI_wraps : (ran ((regs [(0, 1)]).setI 0xFFFF) 0xF01E).map (·.i) = some 0 := by decide
/-- M7: `FONT_BASE + 130`, whatever `FONT_BASE` is. -/
theorem test_ldF : ran (regs [(2, 0x1A)]) 0xF229 =
    some ((((((regs [(2, 0x1A)]).withFetchWord 16 0xF229).setAgenda []).setStarted true).setOp 0xF229).setI
      (BitVec.ofNat 16 (Config.fontBase.val + 130))).advance := rfl
theorem test_ldB : (ran ((regs [(1, 234)]).setI 0x300) 0xF133).map (fun t => t.readBytes 0x300 3) = some [2, 3, 4] := by decide
theorem test_ldB_bounds :
    (ran ((regs [(1, 123)]).setI 0xFFE) 0xF133).map (fun t => (latch t, t.readBytes 0xFFE 2)) = some ((true, 5, 0x1000, 0x200), [0, 0]) := by
  decide
theorem test_storeRegs :
    (ran ((regs [(0, 0x11), (1, 0x22), (2, 0x33), (3, 0x44)]).setI 0x400) 0xF255).map (fun t => (t.readBytes 0x400 4, t.i)) =
      some ([0x11, 0x22, 0x33, 0], 0x400) := by decide
theorem test_storeRegs_bounds : (ran (State.reset.setI 0xFFFF) 0xF055).map latch = some (true, 5, 0xFFFF, 0x200) := by decide
theorem test_loadRegs :
    (ran (((regs [(3, 0x99)]).writeBytes 0x400 [0x11, 0x22, 0x33, 0x44]).setI 0x400) 0xF265).map
      (fun t => (t.getReg 0, t.getReg 1, t.getReg 2, t.getReg 3)) = some (0x11, 0x22, 0x33, 0x99) := by decide
theorem test_loadRegs_bounds : (ran ((regs [(0, 9)]).setI 0xFFF) 0xF165).map (fun t => (latch t, t.getReg 0)) =
    some ((true, 5, 0x1000, 0x200), 9) := by decide

/-! Display (G1 to G16). -/

/-- `I = 0x300` with the sprite byte there, and `V0`, `V1`. -/
def sprite (b v0 v1 : Byte) : State := ((regs [(0, v0), (1, v1)]).writeByte 0x300 b).setI 0x300

theorem test_cls : (ran (lit .reset [5, 2047]) 0x00E0).map (fun t => (cells [5, 2047] t, t.render, t.pc)) =
    some ([false, false], true, 0x202) := by decide +kernel
theorem test_drw_collision : (ran (lit (sprite 0x0F 0 0) [0, 5]) 0xD011).map (fun t => (cells [0, 3, 4, 5, 6, 7, 8] t, t.vf)) =
    some ([true, false, true, false, true, true, false], 1) := by decide +kernel
theorem test_drw_row_spill : (ran (sprite 0xC0 63 31) 0xD011).map (fun t => (latch t, t.cell 2047)) =
    some ((true, 6, 0x0800, 0x200), false) := by decide +kernel

/-! Keys and timers (T1 to T14). -/

theorem test_ldVxK : (ran (State.reset.setKeys 0x400) 0xF30A).map (fun t => (t.getReg 3, t.pc)) = some (0x0A, 0x202) := by decide
theorem test_ldVxK_waits : (ran .reset 0xF30A).map latch = some (false, 0, 0, 0x200) := by decide
theorem test_ldVxDt : (ran (State.reset.setDt 0x3C) 0xF207).map (fun t => (t.getReg 2, t.dt, t.pc)) = some (0x3C, 0x3C, 0x202) := by decide
theorem test_ldDtVx : (ran (regs [(0, 0x3C)]) 0xF015).map (fun t => (t.dt, t.pc)) = some (0x3C, 0x202) := by decide
theorem test_ldStVx : (ran (regs [(0, 5)]) 0xF018).map (fun t => (t.st, t.soundActive, t.pc)) = some (5, false, 0x202) := by decide

/-! Ticks, host moves and fetch faults (T8 to T14, X1 to X9). -/

theorem test_tick : (moved ((State.reset.setDt 2).setSt 255) .tick).map (fun t => (t.dt, t.st, t.soundActive)) = some (1, 254, true) := by decide
theorem test_tick_last : (moved (State.reset.setSt 1) .tick).map (fun t => (t.dt, t.st, t.soundActive)) = some (0, 0, false) := by decide
theorem test_illegal_word : (ran .reset 0x5AB1).map latch = some (true, 1, 0x5AB1, 0x200) := by decide
theorem test_fetch_bounds : (moved (State.reset.setPc 0xFFF) .execute).map latch = some (true, 2, 0x0FFF, 0xFFF) := by decide
theorem test_halted_is_stuck : step (State.reset.raise .illegalOpcode 0xFFFF) = .fault .coreHalted := rfl
theorem test_reset_move : (moved (((regs [(1, 2)]).setI 7).raise .keyRange 0x10) .reset).map (fun t => (latch t, t.getReg 1, t.i)) =
    some ((false, 0, 0, 0x200), 0, 0) := by decide
theorem test_ackRender : (moved (State.reset.setRender true) .ackRender).map (·.render) = some false := by decide
theorem test_setKey : (moved State.reset (.setKey 5 true)).map (fun t => (t.keyDown 5, t.keyDown 6)) = some (true, false) := by decide
theorem test_loadProgram : (moved State.reset (.loadProgram [0x60, 0x0A])).map (fun t => (t.readBytes 0x1FF 4, t.pc)) =
    some ([State.reset.readByte 0x1FF, 0x60, 0x0A, 0], 0x200) := rfl
/-- X9: after reset with nothing loaded, the word 0x0000 is executed and nothing changes. -/
theorem test_first_step : (next? (step State.reset)).map latch = some (false, 0, 0, 0x200) := by decide

/-! Witnesses: states and operands that meet the hypotheses of the statements, at the ends of their ranges. -/

theorem test_witness_encoding :
    Instr.wellFormed (.sys 0xFFF) = true ∧ decodeWord 0x5340 = some (.seReg 3 4) ∧
    (Instr.row (.sys 0)).covers 0x00E1 = true ∧ (0x00E1 : Word) ≠ 0x00E0 ∧ (0x00E1 : Word) ≠ 0x00EE := by decide

/-- `StepRunsDecodedInstruction`, at the last fetchable address. -/
theorem test_witness_step :
    let s := (State.reset.setPc 4094).withFetchWord 16 0x8014
    s.nextMove = .execute ∧ s.halted = false ∧ s.pc.toNat ≤ 4094 ∧
    (0x8014 : Word).toNat = (s.readByte s.pc.toNat).toNat * 256 + (s.readByte (s.pc.toNat + 1)).toNat ∧
    decodeWord 0x8014 = some (.addReg 0 1) := by decide

/-- `IllegalWordTakesFault`. -/
theorem test_witness_illegal :
    let s := State.reset.withFetchWord 16 0x8AB8
    s.nextMove = .execute ∧ s.halted = false ∧ s.pc.toNat ≤ 4094 ∧
    (0x8AB8 : Word).toNat = (s.readByte s.pc.toNat).toNat * 256 + (s.readByte (s.pc.toNat + 1)).toNat ∧
    decodeWord 0x8AB8 = none := by decide

/-- `FetchBoundsTakesFault`, at its lowest `pc`. -/
theorem test_witness_fetch :
    let s := State.reset.setPc 4095
    s.nextMove = .execute ∧ s.halted = false ∧ 4094 < s.pc.toNat := by decide

/-- `HaltedCoreStaysHalted`: Execute next, Tick next, and a move that has a next state. -/
theorem test_witness_halted :
    let s := State.reset.raise .keyRange 0x10
    s.halted = true ∧ s.nextMove = .execute ∧ (s.setAgenda [.tick]).nextMove = .tick ∧
    ∃ t, step (s.setAgenda [.setKey 3 true]) = .next t ∧ (s.setAgenda [.setKey 3 true]).nextMove ≠ .reset :=
  ⟨rfl, rfl, rfl, _, rfl, by decide⟩

/-- `InstructionFaultsArePrecise` and `InstructionsWriteOnlyTheirParts`. -/
theorem test_witness_fault : State.reset.halted = false ∧ ∃ t, exec .ret .reset = .next t ∧ t.halted = true := ⟨rfl, _, rfl, rfl⟩

/-- `DiagnosticsNameTheOpcode`, both clauses. -/
theorem test_witness_diag :
    let s := State.reset.withFetchWord 16 0x0FFF
    let t := State.reset.withFetchWord 16 0xF100
    (s.nextMove = .execute ∧ s.halted = false ∧ s.pc.toNat ≤ 4094 ∧ decodeWord s.fetchWord = some (.sys 0xFFF)) ∧
    (t.nextMove = .execute ∧ t.halted = false ∧ t.pc.toNat ≤ 4094 ∧ decodeWord t.fetchWord = none) := by decide

/-- `CallPushesItsAddress`, `ReturnPopsPastTheCall` and `StackFaultsTaken` at the ends of the stack. -/
theorem test_witness_stack :
    (State.reset.setSp 15).sp.val < 16 ∧ State.reset.sp.val < 16 ∧ 0 < (State.reset.setSp 1).sp.val ∧ 0 < (State.reset.setSp 16).sp.val ∧
    (State.reset.setSp 16).sp.val = 16 ∧ State.reset.sp.val = 0 := by decide

/-- `CallThenReturnResumes`. -/
theorem test_witness_call_return :
    ∃ s t u v : State, s.sp.val < 16 ∧ exec (.call 0x20E) s = .next t ∧ u.stack = t.stack ∧ u.sp = t.sp ∧ exec .ret u = .next v := by
  refine ⟨State.reset, _, _, _, by decide, rfl, rfl, rfl, rfl⟩

/-- `LegacyNoOpLivelock`, under a schedule of several kinds of move. -/
theorem test_witness_livelock :
    let s := State.reset.setAgenda [.tick, .execute, .setKey 3 true, .ackRender]
    s.atSys ∧ ∀ m ∈ s.agenda, m.isOrdinary = true := ⟨⟨rfl, by decide, 0, rfl⟩, by decide⟩

/-- `AddWithCarry`, `SubtractionsWithoutVf`, `SubtractionsNamingVf`, `ShiftsByOne`. -/
theorem test_witness_registers : (0x0 : RegNum) ≠ flagReg ∧ (0xE : RegNum) ≠ flagReg ∧ (0xF : RegNum) = flagReg := by decide

/-- `BcdStoresThreeDigits`, `BlockStoreWritesRegisters`, `BlockLoadReadsRegisters` at their highest bases. -/
theorem test_witness_blocks :
    (State.reset.setI 4093).i.toNat ≤ 4093 ∧ (State.reset.setI 4080).i.toNat + (15 : RegNum).toNat ≤ 4095 ∧
    (State.reset.setI 4095).i.toNat + (0 : RegNum).toNat ≤ 4095 := by decide

/-- `StoreThenLoadRestores`, into a zeroed register file. -/
theorem test_witness_store_load :
    ∃ s t u v : State, s.i.toNat + (3 : RegNum).toNat ≤ 4095 ∧ exec (.storeRegs 3) s = .next t ∧ u.mem = t.mem ∧ u.i = t.i ∧
      exec (.loadRegs 3) u = .next v ∧ s.getReg 3 = 0xEF ∧ u.getReg 3 = 0 := by
  refine ⟨(regs [(0, 0xDE), (1, 0xAD), (2, 0xBE), (3, 0xEF)]).setI 0x500, _, State.setV _ (Vector.replicate 16 0), _,
    by decide, rfl, rfl, rfl, rfl, by decide, by decide⟩

/-- `StoreIsSeenByNextFetch`: program P8 at the step before the rewritten word. -/
theorem test_witness_store_fetch :
    ∃ s t u : State, s.i.toNat + (1 : RegNum).toNat ≤ 4095 ∧ exec (.storeRegs 1) s = .next t ∧ u.mem = t.mem ∧
      (0 : RegNum).toNat + 1 ≤ (1 : RegNum).toNat ∧ u.pc.toNat = s.dataAddr (0 : RegNum).toNat := by
  refine ⟨((regs [(0, 0x12), (1, 0x0A)]).setI 0x208).setPc 0x206, _, _, by decide, rfl, rfl, by decide, by decide⟩

/-- `MemoryBoundsTakeFault`, each clause at its lowest base. -/
theorem test_witness_memBounds :
    4095 < (State.reset.setI 4094).i.toNat + 2 ∧ 4095 < (State.reset.setI 4081).i.toNat + (15 : RegNum).toNat ∧
    (0 < (15 : BitVec 4).toNat ∧ 4095 < (State.reset.setI 4082).i.toNat + ((15 : BitVec 4).toNat - 1)) := by decide

/-- `MemoryReadAfterWrite`, at the last byte. -/
theorem test_witness_memory : (4095 : Nat) < 4096 ∧ (4094 : Nat) ≠ 4095 ∧ State.reset.mem.wf := ⟨by decide, by decide, Laws.Memory.wf_reset⟩

/-- `DrawTogglesTargets`: the sprite bit lands on the last cell; and, with no row, the operands may be anything. -/
theorem test_witness_draw :
    let s := sprite 0x80 63 31
    ((1 : BitVec 4).toNat = 0 ∨ s.i.toNat + ((1 : BitVec 4).toNat - 1) ≤ 4095) ∧ (∀ k, s.spriteTarget 0 1 1 k → k ≤ 2047) ∧
    s.spriteTarget 0 1 1 2047 := by
  refine ⟨by decide, fun k h => ?_, (Laws.Sprite.mem_drawTargets _ _ _ _ _).1 (by decide +kernel)⟩
  have all : ∀ k ∈ (sprite 0x80 63 31).drawTargets 0 1 1, k ≤ 2047 := by decide +kernel
  exact all k ((Laws.Sprite.mem_drawTargets _ _ _ _ _).2 h)

theorem test_witness_draw_nothing :
    let s := (regs [(0, 200), (1, 200)]).setI 0xFFFF
    ((0 : BitVec 4).toNat = 0 ∨ s.i.toNat + ((0 : BitVec 4).toNat - 1) ≤ 4095) ∧ ∀ k, s.spriteTarget 0 1 0 k → k ≤ 2047 :=
  ⟨.inl rfl, fun _ ⟨_, _, h, _⟩ => absurd h (Nat.not_lt_zero _)⟩

/-- `DrawTwiceRestoresDisplay`. -/
theorem test_witness_draw_twice :
    ∃ s t u : State, s.halted = false ∧ (0 : RegNum) ≠ flagReg ∧ (1 : RegNum) ≠ flagReg ∧ exec (.drw 0 1 1) s = .next t ∧
      t.halted = false ∧ exec (.drw 0 1 1) t = .next u := by
  refine ⟨sprite 0x80 63 31, _, _, rfl, by decide, by decide, rfl, rfl, rfl⟩

/-- `DisplayBoundsTakeFault`: G10, the second bit is the first one off the display. -/
theorem test_witness_displayBounds :
    let s := sprite 0xC0 63 31
    s.i.toNat + ((1 : BitVec 4).toNat - 1) ≤ 4095 ∧ 0 < (1 : BitVec 4).toNat ∧ 1 < 8 ∧ s.spriteBit 0 1 = true ∧
    s.spriteIndex 0 1 0 1 = 2048 ∧
    ∀ row' bit', bit' < 8 → (row' < 0 ∨ row' = 0 ∧ bit' < 1) → s.spriteBit row' bit' = true → s.spriteIndex 0 1 row' bit' ≤ 2047 := by
  refine ⟨by decide, by decide, by decide, by decide, by decide, fun row' bit' _ h _ => ?_⟩
  obtain ⟨rfl, rfl⟩ : row' = 0 ∧ bit' = 0 := by omega
  decide

/-- `KeySkipsTestTheLevel`, `KeyRangeTakesFault` where their ranges meet; `KeyWaitTakesAPressedKey`, both clauses. -/
theorem test_witness_keys :
    ((regs [(1, 15)]).getReg 1).toNat ≤ 15 ∧ 15 < ((regs [(1, 16)]).getReg 1).toNat ∧
    (∃ k, k < 16 ∧ (State.reset.setKeys 0x8204).keyDown k = true) ∧ (∀ k, k < 16 → State.reset.keyDown k = false) :=
  ⟨by decide, by decide, ⟨15, by decide, by decide⟩, by decide⟩

/-- `SetDelayTimer` and `SetSoundTimer`. -/
theorem test_witness_timers :
    (∃ t, step ((regs [(0, 0x3C)]).withFetchWord 16 0xF015) = .next t ∧
      ((regs [(0, 0x3C)]).withFetchWord 16 0xF015).dt.toNat < t.dt.toNat) ∧
    ∃ t, exec (.ldStVx 0) (State.reset.setAgenda [.tick]) = .next t ∧ (State.reset.setAgenda [.tick]).halted = false ∧
      t.nextMove = .tick := ⟨⟨_, rfl, by decide⟩, _, rfl, rfl, rfl⟩

/-- `TickCountsDown` and `TicksReachZeroAndStay`. -/
theorem test_witness_ticks :
    let s := (State.reset.setSt 3).setAgenda (List.replicate 4 .tick ++ [.execute])
    s.nextMove = .tick ∧ s.halted = false ∧ s.agenda = List.replicate 4 .tick ++ [.execute] ∧ 0 < 4 := ⟨rfl, rfl, rfl, by decide⟩

/-- `KeyAndRenderMoves` and `ResetMoveEstablishesResetState`. -/
theorem test_witness_moves :
    (State.reset.setAgenda [.setKey 15 false]).nextMove = .setKey 15 false ∧ (State.reset.setAgenda [.ackRender]).nextMove = .ackRender ∧
    (State.reset.setAgenda [.reset]).nextMove = .reset := ⟨rfl, rfl, rfl⟩

/-- `LoadProgramPlacesBytes`: the largest program, one byte more, and a load after the start. -/
theorem test_witness_load :
    let big := State.reset.setAgenda [.loadProgram (List.replicate 3584 0xFF)]
    let larger := State.reset.setAgenda [.loadProgram (List.replicate 3585 0xFF)]
    let late := (State.reset.setStarted true).setAgenda [.loadProgram [0x60]]
    (big.nextMove = .loadProgram (List.replicate 3584 0xFF) ∧ big.started = false ∧ (List.replicate 3584 (0xFF : Byte)).length ≤ 3584) ∧
    (larger.nextMove = .loadProgram (List.replicate 3585 0xFF) ∧ larger.started = false ∧
      3584 < (List.replicate 3585 (0xFF : Byte)).length) ∧
    (late.nextMove = .loadProgram [0x60] ∧ late.started = true) := by
  refine ⟨⟨rfl, rfl, ?_⟩, ⟨rfl, rfl, ?_⟩, rfl, rfl⟩
  · rw [List.length_replicate]
  · rw [List.length_replicate]; decide

/-- `StepKeepsInvariant` and `RunKeepsInvariant`. -/
theorem test_witness_invariant :
    State.reset.Inv ∧ (∃ t, step State.reset = .next t) ∧ ∃ t, Host.Core.run core 1 State.reset = .next t := by
  refine ⟨⟨Laws.Memory.wf_reset, by decide, fun k hk => absurd hk (Nat.not_lt_zero k), rfl, rfl⟩, ⟨_, rfl⟩, _, rfl⟩

end Sys2Proof.Tests
end

