-- ==== Sys2Proof/Proofs/Skip.lean ====
section
/-! SUPPORT. The conditional skips of 41_skip.md: how the immediate forms decode, what each skip instruction executes to, and the effect
every skip has (R70): a next state in which only `pc` differs, by 4 or by 2. -/

namespace Sys2Proof.Laws.Skip

open Sys2Proof Sys2Proof.Machine Sys2Proof.Laws.Encoding Sys2Proof.Laws.State

theorem decodeWord_seImm (x : RegNum) (kk : Byte) : decodeWord (0x3#4 ++ x ++ kk) = some (.seImm x kk) := by
  simp [decodeWord, fieldGrp_xkk, fieldX_xkk, fieldKk_xkk]

theorem decodeWord_sneImm (x : RegNum) (kk : Byte) : decodeWord (0x4#4 ++ x ++ kk) = some (.sneImm x kk) := by
  simp [decodeWord, fieldGrp_xkk, fieldX_xkk, fieldKk_xkk]

theorem exec_seImm (x : RegNum) (kk : Byte) (s : State) :
    exec (.seImm x kk) s = .next (s.skipIf (decide (s.getReg x = kk))) := rfl

theorem exec_sneImm (x : RegNum) (kk : Byte) (s : State) :
    exec (.sneImm x kk) s = .next (s.skipIf (decide (s.getReg x ≠ kk))) := rfl

/-- R70: an instruction that answers `skipIf` of a condition moves `pc` by 4 or 2 and leaves every other part alone. -/
theorem skip_effect {i : Instr} {s : State} {P : Prop} [Decidable P] (h : exec i s = .next (s.skipIf (decide P))) :
    ∃ t, exec i s = .next t ∧ t.pc = s.pc + (if P then 4 else 2) ∧ Machine.Frame (fun p => p = .pc) s t := by
  refine ⟨s.skipIf (decide P), h, ?_, Laws.Frame.skipIf s _⟩
  simp only [skipIf_pc, decide_eq_true_eq]

end Sys2Proof.Laws.Skip

open Sys2Proof.Laws.Skip

/-- Settles O22: the format laws give the two decodings, and both instructions are skips on their condition. -/
theorem skipsOnImmediate : Obligations.SkipsOnImmediate := fun x kk s =>
  ⟨decodeWord_seImm x kk, decodeWord_sneImm x kk, skip_effect (exec_seImm x kk s), skip_effect (exec_sneImm x kk s)⟩

end

