-- ==== Sys2Proof/Proofs/Alu.lean ====
section
/-! SUPPORT. The loads, the immediate addition and the logical operations of 42_alu.md: how their words decode, what each executes to,
and the effect all of them have (R76 to R81): a next state in which only `V[x]` and `pc` are written. -/

namespace Sys2Proof.Laws.Alu

open Sys2Proof Sys2Proof.Machine Sys2Proof.Laws.Encoding Sys2Proof.Laws.Ops

theorem decodeWord_ldImm (x : RegNum) (kk : Byte) : decodeWord (0x6#4 ++ x ++ kk) = some (.ldImm x kk) := by
  simp [decodeWord, fieldGrp_xkk, fieldX_xkk, fieldKk_xkk]

theorem decodeWord_addImm (x : RegNum) (kk : Byte) : decodeWord (0x7#4 ++ x ++ kk) = some (.addImm x kk) := by
  simp [decodeWord, fieldGrp_xkk, fieldX_xkk, fieldKk_xkk]

/-- Of a word of group 8 only the low nibble selects the instruction (R54, R56). -/
theorem decodeWord_group8 (x y n : BitVec 4) : decodeWord (0x8#4 ++ x ++ y ++ n) = decodeGroup8 x y n := by
  simp [decodeWord, fieldGrp_xyn, fieldX_xyn, fieldY_xyn, fieldN_xyn]

theorem exec_ldImm (x : RegNum) (kk : Byte) (s : State) : exec (.ldImm x kk) s = .next (s.setReg x kk).advance := rfl

theorem exec_ldReg (x y : RegNum) (s : State) : exec (.ldReg x y) s = .next (s.setReg x (s.getReg y)).advance := rfl

theorem exec_addImm (x : RegNum) (kk : Byte) (s : State) :
    exec (.addImm x kk) s = .next (s.setReg x (s.getReg x + kk)).advance := rfl

theorem exec_orReg (x y : RegNum) (s : State) :
    exec (.orReg x y) s = .next (s.setReg x (s.getReg x ||| s.getReg y)).advance := rfl

theorem exec_andReg (x y : RegNum) (s : State) :
    exec (.andReg x y) s = .next (s.setReg x (s.getReg x &&& s.getReg y)).advance := rfl

theorem exec_xorReg (x y : RegNum) (s : State) :
    exec (.xorReg x y) s = .next (s.setReg x (s.getReg x ^^^ s.getReg y)).advance := rfl

/-- A register write and the advance of `pc` together leave every part but those two alone. -/
theorem setReg_advance_frame (s : State) (x : RegNum) (b : Byte) :
    Machine.Frame (fun p => p = .pc ∨ p = .reg x) s (s.setReg x b).advance :=
  Frame.trans (Frame.mono (Frame.setReg s x b) fun _ => Or.inr) (Frame.mono (Frame.advance _) fun _ => Or.inl)

/-- The effect of an instruction that writes one register and advances. -/
theorem regWrite_effect {i : Instr} {s : State} {x : RegNum} {b : Byte} (h : exec i s = .next (s.setReg x b).advance) :
    ∃ t, exec i s = .next t ∧ t.getReg x = b ∧ t.pc = s.pc + 2 ∧ Machine.Frame (fun p => p = .pc ∨ p = .reg x) s t :=
  ⟨_, h, getReg_setReg_same s x b, rfl, setReg_advance_frame s x b⟩

/-- A register write whose value is `f` of the old bits of `V[x]` and `V[y]`, bit by bit (R79 to R81). -/
theorem bitwise_effect (f : Bool → Bool → Bool) {i : Instr} {s : State} {x y : RegNum} {b : Byte}
    (h : exec i s = .next (s.setReg x b).advance)
    (hb : ∀ k, b.getLsbD k = f ((s.getReg x).getLsbD k) ((s.getReg y).getLsbD k)) :
    ∃ t, exec i s = .next t ∧
      (∀ k, k < 8 → (t.getReg x).getLsbD k = f ((s.getReg x).getLsbD k) ((s.getReg y).getLsbD k)) ∧ t.pc = s.pc + 2 ∧
      Machine.Frame (fun p => p = .pc ∨ p = .reg x) s t := by
  obtain ⟨t, ht, hx, hpc, hframe⟩ := regWrite_effect h
  exact ⟨t, ht, fun k _ => hx ▸ hb k, hpc, hframe⟩

end Sys2Proof.Laws.Alu

open Sys2Proof.Laws.Alu

/-- Settles O24: both loads are a register write, of `kk` and of `V[y]`. -/
theorem loadsWriteOneRegister : Obligations.LoadsWriteOneRegister := fun x y kk s =>
  ⟨decodeWord_ldImm x kk, decodeWord_group8 x y 0x0#4,
    regWrite_effect (exec_ldImm x kk s), regWrite_effect (exec_ldReg x y s)⟩

/-- Settles O25: the register write of a byte sum, whose number is the sum modulo 256. -/
theorem addImmediateWraps : Obligations.AddImmediateWraps := by
  intro x kk s
  obtain ⟨t, ht, hx, hpc, hframe⟩ := regWrite_effect (exec_addImm x kk s)
  exact ⟨decodeWord_addImm x kk, t, ht, hx ▸ BitVec.toNat_add .., hpc, hframe⟩

/-- Settles O26: the three instructions are bitwise register writes, of the connective each is named after. -/
theorem logicIsBitwise : Obligations.LogicIsBitwise := fun x y s =>
  ⟨decodeWord_group8 x y 0x1#4, decodeWord_group8 x y 0x2#4, decodeWord_group8 x y 0x3#4,
    bitwise_effect or (exec_orReg x y s) fun _ => BitVec.getLsbD_or,
    bitwise_effect and (exec_andReg x y s) fun _ => BitVec.getLsbD_and,
    bitwise_effect xor (exec_xorReg x y s) fun _ => BitVec.getLsbD_xor⟩

end

