-- ==== Sys2Proof/Proofs/IndexMemory.lean ====
section
/-! SUPPORT. The index register of 43_index_memory.md: how `Annn` decodes, what it executes to, and the effect of every instruction that
writes `I` and advances (R91 to R93): a next state in which only `I` and `pc` are written. -/

namespace Sys2Proof.Laws.IndexMemory

open Sys2Proof Sys2Proof.Machine Sys2Proof.Laws.Encoding

theorem decodeWord_ldI (nnn : BitVec 12) : decodeWord (0xA#4 ++ nnn) = some (.ldI nnn) := by
  simp [decodeWord, fieldGrp_nnn, fieldNnn_nnn]

theorem exec_ldI (nnn : BitVec 12) (s : State) : exec (.ldI nnn) s = .next (s.setI (absolute nnn)).advance := rfl

/-- A write of `I` and the advance of `pc` together leave every part but those two alone. -/
theorem setI_advance_frame (s : State) (a : Word) : Machine.Frame (fun p => p = .pc ∨ p = .i) s (s.setI a).advance :=
  Frame.trans (Frame.mono (Frame.setI s a) fun _ => Or.inr) (Frame.mono (Frame.advance _) fun _ => Or.inl)

/-- The effect of an instruction that writes `I` and advances. -/
theorem indexWrite_effect {i : Instr} {s : State} {a : Word} (h : exec i s = .next (s.setI a).advance) :
    ∃ t, exec i s = .next t ∧ t.i = a ∧ t.pc = s.pc + 2 ∧ Machine.Frame (fun p => p = .pc ∨ p = .i) s t :=
  ⟨_, h, rfl, rfl, setI_advance_frame s a⟩

end Sys2Proof.Laws.IndexMemory

open Sys2Proof.Laws.IndexMemory

/-- Settles O32: a write of `I` with the absolute address, which as a number is `nnn` itself. -/
theorem loadIndexRegister : Obligations.LoadIndexRegister := by
  intro nnn s
  obtain ⟨t, ht, hi, hpc, hframe⟩ := indexWrite_effect (exec_ldI nnn s)
  exact ⟨decodeWord_ldI nnn, t, ht, hi ▸ Sys2Proof.Laws.Ops.absolute_toNat nnn, hpc, hframe⟩

end

