-- ==== Sys2Proof/Proofs/Display.lean ====
section
/-! SUPPORT. CLS of 44_display.md: how its word decodes, what it executes to, and the effect of replacing the whole display (R99):
a next state with the new cells and `render` set, in which only the cells, `render` and `pc` are written. -/

namespace Sys2Proof.Laws.Display

open Sys2Proof Sys2Proof.Machine

theorem decodeWord_cls : decodeWord 0x00E0 = some .cls := by decide

theorem exec_cls (s : State) : exec .cls s = .next ((s.setDisp 0).setRender true).advance := rfl

@[simp] theorem cell_setDisp (s : State) (d : BitVec 2048) (k : Nat) : (s.setDisp d).cell k = d.getLsbD k := rfl

/-- A display write may change any of the cells, and nothing but cells. -/
theorem setDisp_frame (s : State) (d : BitVec 2048) : Machine.Frame (fun p => ∃ k, p = .cell k) s (s.setDisp d) :=
  Frame.mono (Frame.setDisp s d (fun _ => True) fun _ h => absurd trivial h) fun _ ⟨k, hp, _⟩ => ⟨k, hp⟩

/-- A display write, the raising of `render` and the advance of `pc` together leave every other part alone. -/
theorem setDisp_setRender_advance_frame (s : State) (d : BitVec 2048) :
    Machine.Frame (fun p => p = .pc ∨ p = .render ∨ ∃ k, p = .cell k) s ((s.setDisp d).setRender true).advance := by
  refine Frame.trans (t := s.setDisp d) ?_ (Frame.trans (t := (s.setDisp d).setRender true) ?_ ?_)
  · exact Frame.mono (setDisp_frame s d) fun _ => Or.inr ∘ Or.inr
  · exact Frame.mono (Frame.setRender _ true) fun _ => Or.inr ∘ Or.inl
  · exact Frame.mono (Frame.advance _) fun _ => Or.inl

/-- The effect of an instruction that replaces the display, raises `render` and advances. -/
theorem displayWrite_effect {i : Instr} {s : State} {d : BitVec 2048}
    (h : exec i s = .next ((s.setDisp d).setRender true).advance) :
    ∃ t, exec i s = .next t ∧ (∀ k, t.cell k = d.getLsbD k) ∧ t.render = true ∧ t.pc = s.pc + 2 ∧
      Machine.Frame (fun p => p = .pc ∨ p = .render ∨ ∃ k, p = .cell k) s t :=
  ⟨_, h, fun k => by simp, rfl, rfl, setDisp_setRender_advance_frame s d⟩

end Sys2Proof.Laws.Display

open Sys2Proof.Laws.Display

/-- Settles O42: CLS is a display write of the zero vector, every bit of which is off. -/
theorem clearTurnsEveryCellOff : Obligations.ClearTurnsEveryCellOff := by
  intro s
  obtain ⟨t, ht, hcell, hrender, hpc, hframe⟩ := displayWrite_effect (exec_cls s)
  have hoff : ∀ k, k < 2048 → t.cell k = false := fun k _ => (hcell k).trans BitVec.getLsbD_zero
  exact ⟨decodeWord_cls, t, ht, hoff, hrender, hpc, hframe⟩

end

