-- ==== Sys2Proof/Proofs/KeysTimers.lean ====
section
/-! SUPPORT. The delay timer of 45_keys_timers.md: how `Fx07` and `Fx15` decode, what they execute to, and who writes `DT` (R108): of the
instructions only `Fx15`, and of the other moves none makes it go up. -/

namespace Sys2Proof.Laws.KeysTimers

open Sys2Proof Sys2Proof.Machine Sys2Proof.Laws.Encoding Sys2Proof.Laws.State Sys2Proof.Laws.Ops Sys2Proof.Laws.Step

/-- Of a word of group F the low byte selects the instruction (R54, R56). -/
theorem decodeWord_groupF (x : RegNum) (ss : Byte) : decodeWord (0xF#4 ++ x ++ ss) = decodeGroupF x ss := by
  simp [decodeWord, fieldGrp_xkk, fieldX_xkk, fieldKk_xkk]

theorem exec_ldVxDt (x : RegNum) (s : State) : exec (.ldVxDt x) s = .next (s.setReg x s.dt).advance := rfl

theorem exec_ldDtVx (x : RegNum) (s : State) : exec (.ldDtVx x) s = .next (s.setDt (s.getReg x)).advance := rfl

/-- A write of `DT` and the advance of `pc` together leave every part but those two alone. -/
theorem setDt_advance_frame (s : State) (a : Byte) : Machine.Frame (fun p => p = .pc ∨ p = .dt) s (s.setDt a).advance :=
  Frame.trans (Frame.mono (Frame.setDt s a) fun _ => Or.inr) (Frame.mono (Frame.advance _) fun _ => Or.inl)

/-! Who writes `DT`. The bulk operations first: each is a write of one other field. -/

@[simp] theorem writeBytes_dt (s : State) (a : Nat) (bs : List Byte) : (s.writeBytes a bs).dt = s.dt := by
  obtain ⟨m, hm⟩ := writeBytes_frame s a bs
  rw [hm, setMem_dt]

@[simp] theorem storeFirst_dt (s : State) (base n : Nat) : (s.storeFirst base n).dt = s.dt := by
  obtain ⟨m, hm⟩ := storeFirst_frame s base n
  rw [hm, setMem_dt]

@[simp] theorem loadFirst_dt (s : State) (base n : Nat) : (s.loadFirst base n).dt = s.dt := by
  obtain ⟨w, hw⟩ := loadFirst_frame s base n
  rw [hw, setV_dt]

@[simp] theorem draw_dt (s : State) (cells : List Nat) : (s.draw cells).dt = s.dt := rfl

@[simp] theorem fetched_dt (s : State) : s.fetched.dt = s.dt := rfl

@[simp] theorem hostReset_dt (s : State) : s.hostReset.dt = 0 := rfl

/-- Every instruction but `Fx15` leaves `DT` alone, whether or not it faults (R24). -/
theorem exec_dt {i : Instr} {s t : State} (h : exec i s = .next t) (hi : ∀ x, i ≠ .ldDtVx x) : t.dt = s.dt := by
  cases i with
  | ldDtVx x => exact absurd rfl (hi x)
  | ret | call _ | skp _ | sknp _ | ldVxK _ | ldB _ =>
    simp only [exec, execRet, execCall, execSkp, execSknp, execLdVxK, execLdB] at h
    split at h <;> cases h <;> rfl
  | storeRegs _ | loadRegs _ =>
    simp only [exec, execStoreRegs, execLoadRegs] at h
    split at h <;> cases h <;> simp
  | drw _ _ _ =>
    simp only [exec, execDrw] at h
    split at h
    · cases h; rfl
    · split at h <;> cases h <;> rfl
  | _ => cases h; rfl

/-- An Execute step on any word but an `Fx15` leaves `DT` alone: a fault writes the latch only. -/
theorem executeStep_dt {s t : State} (h : executeStep s = .next t)
    (hword : ∀ x, decodeWord s.fetchWord ≠ some (.ldDtVx x)) : t.dt = s.dt := by
  obtain ⟨-, ⟨-, rfl⟩ | ⟨-, -, rfl⟩ | ⟨-, i, hd, hexec⟩⟩ := executeStep_cases h
  · exact raise_dt ..
  · exact (raise_dt ..).trans (fetched_dt s)
  · exact (exec_dt hexec fun x hx => hword x (hx ▸ hd)).trans (fetched_dt s)

/-- No other move makes `DT` go up: Tick counts down (R124), Reset zeroes it (R134), the rest leave it. -/
theorem perform_dt_le {m : Move} {s t : State} (h : perform m s = .next t) (hm : m ≠ .execute) :
    t.dt.toNat ≤ s.dt.toNat := by
  obtain ⟨hx, -⟩ | ⟨-, -, rfl⟩ | ⟨_, _, -, _, rfl⟩ | ⟨-, rfl⟩ | ⟨bytes, -, -, -, rfl⟩ | ⟨-, rfl⟩ := perform_cases h
  · exact absurd hx hm
  · rw [tick_dt, countDown_toNat]; exact Nat.sub_le _ _
  · rw [setKeys_dt]
  · rw [setRender_dt]
  · rw [writeBytes_dt]
  · rw [hostReset_dt]; exact Nat.zero_le _

/-- A step after which `DT` is greater is an Execute step on an `Fx15` (R108). -/
theorem step_dt_increase {s t : State} (h : step s = .next t) (hlt : s.dt.toNat < t.dt.toNat) :
    s.nextMove = .execute ∧ ∃ x, decodeWord s.fetchWord = some (.ldDtVx x) := by
  have hm : s.nextMove = .execute := by
    by_contra hm
    exact absurd (perform_dt_le h hm) (Nat.not_le.2 hlt)
  have hexec : executeStep (s.setAgenda s.agenda.tail) = .next t := (step_of_nextMove hm).symm.trans h
  refine ⟨hm, ?_⟩
  by_contra hword
  have hdt : t.dt = s.dt := (executeStep_dt hexec fun x hx => hword ⟨x, hx⟩).trans (setAgenda_dt ..)
  exact absurd hlt (hdt ▸ Nat.lt_irrefl _)

end Sys2Proof.Laws.KeysTimers

open Sys2Proof.Laws.KeysTimers

/-- Settles O49: a register write of the delay timer, and so with the effect of every such write. -/
theorem readDelayTimer : Obligations.ReadDelayTimer := fun x s =>
  ⟨decodeWord_groupF x 0x07#8, Sys2Proof.Laws.Alu.regWrite_effect (exec_ldVxDt x s)⟩

/-- Settles O50: the instruction is a write of `DT` and an advance; the law over all moves is `step_dt_increase`. -/
theorem setDelayTimer : Obligations.SetDelayTimer :=
  ⟨fun x s => ⟨decodeWord_groupF x 0x15#8, _, exec_ldDtVx x s, rfl, rfl, setDt_advance_frame s (s.getReg x)⟩,
    fun _ _ => step_dt_increase⟩

end

