-- ==== Sys2Proof/Proofs/Other.lean ====
section
/-! SUPPORT. The statements over every instruction and every move, and those about single ones: decoding and encoding undo each other
(30_encoding.md); what every instruction answers, and with it the frame, the precise faults and the invariant; then the instructions
family by family (40_flow.md to 45_keys_timers.md), the Execute and Tick steps, and the host's moves (60_exceptions.md). -/

namespace Sys2Proof.Laws.RoundTrip

open Sys2Proof Sys2Proof.Laws.Encoding

/-! From an instruction to its word and back (R63). -/

/-- Of a word of group 0 that is neither fixed word, the low twelve bits are the ignored operand (R55). -/
theorem decodeWord_sys {nnn : BitVec 12} (h : Instr.wellFormed (.sys nnn) = true) :
    decodeWord (0x0#4 ++ nnn) = some (.sys nnn) := by
  simp only [Instr.wellFormed, Bool.and_eq_true, bne_iff_ne] at h
  obtain ⟨hcls, hret⟩ := h
  have other (v : Word) (hv : fieldNnn v ≠ nnn) : (0x0#4 ++ nnn : Word) ≠ v := fun e => hv (e ▸ fieldNnn_nnn 0x0#4 nnn)
  simp [decodeWord, fieldGrp_nnn, fieldNnn_nnn, decodeGroup0, other 0x00E0#16 hcls.symm, other 0x00EE#16 hret.symm]

/-- Of a word of group E the low byte selects the instruction (R54, R56). -/
theorem decodeWord_groupE (x : RegNum) (ss : Byte) : decodeWord (0xE#4 ++ x ++ ss) = decodeGroupE x ss := by
  simp [decodeWord, fieldGrp_xkk, fieldX_xkk, fieldKk_xkk]

/-- Decoding undoes encoding, format by format: the fields of the word are the operands. -/
theorem decodeWord_encodeWord {i : Instr} (h : i.wellFormed = true) : decodeWord (encodeWord i) = some i := by
  cases i with
  | cls | ret => rfl
  | sys nnn => exact decodeWord_sys h
  | jp _ | call _ | ldI _ | jpV0 _ => simp [encodeWord, decodeWord, fieldGrp_nnn, fieldNnn_nnn]
  | seImm _ _ | sneImm _ _ | ldImm _ _ | addImm _ _ | rnd _ _ =>
    simp [encodeWord, decodeWord, fieldGrp_xkk, fieldX_xkk, fieldKk_xkk]
  | seReg _ _ | sneReg _ _ | drw _ _ _ =>
    simp [encodeWord, decodeWord, fieldGrp_xyn, fieldX_xyn, fieldY_xyn, fieldN_xyn]
  | ldReg x y | orReg x y | andReg x y | xorReg x y | addReg x y | sub x y | shr x y | subn x y | shl x y =>
    exact Alu.decodeWord_group8 x y _
  | skp x | sknp x => exact decodeWord_groupE x _
  | ldVxDt x | ldVxK x | ldDtVx x | ldStVx x | addI x | ldF x | ldB x | storeRegs x | loadRegs x =>
    exact KeysTimers.decodeWord_groupF x _

/-- The two bytes of an instruction and whatever follows decode to it and to what follows (R51). -/
theorem decode_encode {i : Instr} (h : i.wellFormed = true) (rest : List Byte) :
    decode (encode i ++ rest) = .ok (i, rest) := by
  simp only [encode, bytesOfWord, List.cons_append, List.nil_append, decode, wordOfBytes_of_bytes, decodeWord_encodeWord h]

/-! From a legal word to its instruction and back: what each group decodes to has the word it was decoded from. -/

/-- A word of group 0 that is neither fixed word is the word of a well-formed `SYS` (R55, R62). -/
theorem wellFormed_sys {nnn : BitVec 12} (hcls : 0x0#4 ++ nnn ≠ 0x00E0#16) (hret : 0x0#4 ++ nnn ≠ 0x00EE#16) :
    Instr.wellFormed (.sys nnn) = true := by
  simp only [Instr.wellFormed, Bool.and_eq_true, bne_iff_ne]
  exact ⟨fun e => hcls (e ▸ rfl), fun e => hret (e ▸ rfl)⟩

theorem decodeGroup0_spec (nnn : BitVec 12) :
    (decodeGroup0 (0x0#4 ++ nnn)).wellFormed = true ∧ encodeWord (decodeGroup0 (0x0#4 ++ nnn)) = 0x0#4 ++ nnn := by
  unfold decodeGroup0
  split_ifs with hcls hret
  · exact ⟨rfl, hcls.symm⟩
  · exact ⟨rfl, hret.symm⟩
  · rw [fieldNnn_nnn]
    exact ⟨wellFormed_sys hcls hret, rfl⟩

theorem decodeGroup8_spec {x y n : BitVec 4} {i : Instr} (h : decodeGroup8 x y n = some i) :
    i.wellFormed = true ∧ encodeWord i = 0x8#4 ++ x ++ y ++ n := by
  unfold decodeGroup8 at h
  split_ifs at h <;> cases h <;> subst_vars <;> exact ⟨rfl, rfl⟩

theorem decodeGroupE_spec {x : RegNum} {ss : Byte} {i : Instr} (h : decodeGroupE x ss = some i) :
    i.wellFormed = true ∧ encodeWord i = 0xE#4 ++ x ++ ss := by
  unfold decodeGroupE at h
  split_ifs at h <;> cases h <;> subst_vars <;> exact ⟨rfl, rfl⟩

theorem decodeGroupF_spec {x : RegNum} {ss : Byte} {i : Instr} (h : decodeGroupF x ss = some i) :
    i.wellFormed = true ∧ encodeWord i = 0xF#4 ++ x ++ ss := by
  unfold decodeGroupF at h
  split_ifs at h <;> cases h <;> subst_vars <;> exact ⟨rfl, rfl⟩

/-- The fields of a word of a known group, put together in each of the formats. -/
theorem word_of_group {w : Word} {g : BitVec 4} (h : (fieldGrp w).toNat = g.toNat) :
    g ++ fieldNnn w = w ∧ g ++ fieldX w ++ fieldKk w = w ∧ g ++ fieldX w ++ fieldY w ++ fieldN w = w := by
  obtain rfl := BitVec.eq_of_toNat_eq h
  exact ⟨nnn_of_fields w, xkk_of_fields w, xyn_of_fields w⟩

/-- A word that decodes is the word of a well-formed instruction, the one it decodes to: group by group. -/
theorem encodeWord_of_decodeWord {w : Word} {i : Instr} (h : decodeWord w = some i) :
    i.wellFormed = true ∧ encodeWord i = w := by
  unfold decodeWord at h
  simp only at h
  split at h <;> rename_i hg
  · obtain ⟨hw, -, -⟩ := word_of_group (g := 0x0#4) hg
    cases h
    rw [← hw]; exact decodeGroup0_spec _
  · cases h; exact ⟨rfl, (word_of_group (g := 0x1#4) hg).1⟩
  · cases h; exact ⟨rfl, (word_of_group (g := 0x2#4) hg).1⟩
  · cases h; exact ⟨rfl, (word_of_group (g := 0x3#4) hg).2.1⟩
  · cases h; exact ⟨rfl, (word_of_group (g := 0x4#4) hg).2.1⟩
  · obtain ⟨-, -, hw⟩ := word_of_group (g := 0x5#4) hg
    split_ifs at h with hn
    cases h
    rw [hn] at hw; exact ⟨rfl, hw⟩
  · cases h; exact ⟨rfl, (word_of_group (g := 0x6#4) hg).2.1⟩
  · cases h; exact ⟨rfl, (word_of_group (g := 0x7#4) hg).2.1⟩
  · obtain ⟨-, -, hw⟩ := word_of_group (g := 0x8#4) hg
    exact hw ▸ decodeGroup8_spec h
  · obtain ⟨-, -, hw⟩ := word_of_group (g := 0x9#4) hg
    split_ifs at h with hn
    cases h
    rw [hn] at hw; exact ⟨rfl, hw⟩
  · cases h; exact ⟨rfl, (word_of_group (g := 0xA#4) hg).1⟩
  · cases h; exact ⟨rfl, (word_of_group (g := 0xB#4) hg).1⟩
  · cases h; exact ⟨rfl, (word_of_group (g := 0xC#4) hg).2.1⟩
  · cases h; exact ⟨rfl, (word_of_group (g := 0xD#4) hg).2.2⟩
  · obtain ⟨-, hw, -⟩ := word_of_group (g := 0xE#4) hg
    exact hw ▸ decodeGroupE_spec h
  · obtain ⟨-, hw, -⟩ := word_of_group (g := 0xF#4) hg
    exact hw ▸ decodeGroupF_spec h
  · cases h

/-! The selectors that a group does not have (R58). -/

theorem decodeGroup8_eq_none (x y n : BitVec 4) :
    decodeGroup8 x y n = none ↔ n ∈ [0x8#4, 0x9#4, 0xA#4, 0xB#4, 0xC#4, 0xD#4, 0xF#4] := by
  have hlist : ∀ n : BitVec 4, n ∈ [0x8#4, 0x9#4, 0xA#4, 0xB#4, 0xC#4, 0xD#4, 0xF#4] ↔
      n ∉ [0x0#4, 0x1#4, 0x2#4, 0x3#4, 0x4#4, 0x5#4, 0x6#4, 0x7#4, 0xE#4] := by decide
  rw [hlist, decodeGroup8]
  split_ifs <;> simp_all

theorem decodeGroupE_eq_none (x : RegNum) (ss : Byte) : decodeGroupE x ss = none ↔ ss ∉ [0x9E#8, 0xA1#8] := by
  rw [decodeGroupE]
  split_ifs <;> simp_all

theorem decodeGroupF_eq_none (x : RegNum) (ss : Byte) :
    decodeGroupF x ss = none ↔ ss ∉ [0x07#8, 0x0A#8, 0x15#8, 0x18#8, 0x1E#8, 0x29#8, 0x33#8, 0x55#8, 0x65#8] := by
  rw [decodeGroupF]
  split_ifs <;> simp_all

end Sys2Proof.Laws.RoundTrip

namespace Sys2Proof.Laws.Rows

open Sys2Proof Sys2Proof.Laws.Encoding Sys2Proof.Laws.RoundTrip

/-! The rows of the opcode map: which words lie in them (R57). -/

/-- Every instruction's word lies in its row. -/
theorem covers_encodeWord (i : Instr) : i.row.covers (encodeWord i) = true := by
  cases i with
  | cls => exact WordInRow.cls
  | ret => exact WordInRow.ret
  | sys nnn => exact WordInRow.sys nnn
  | jp nnn => exact WordInRow.jp nnn
  | call nnn => exact WordInRow.call nnn
  | seImm x kk => exact WordInRow.seImm x kk
  | sneImm x kk => exact WordInRow.sneImm x kk
  | seReg x y => exact WordInRow.seReg x y
  | ldImm x kk => exact WordInRow.ldImm x kk
  | addImm x kk => exact WordInRow.addImm x kk
  | ldReg x y => exact WordInRow.ldReg x y
  | orReg x y => exact WordInRow.orReg x y
  | andReg x y => exact WordInRow.andReg x y
  | xorReg x y => exact WordInRow.xorReg x y
  | addReg x y => exact WordInRow.addReg x y
  | sub x y => exact WordInRow.sub x y
  | shr x y => exact WordInRow.shr x y
  | subn x y => exact WordInRow.subn x y
  | shl x y => exact WordInRow.shl x y
  | sneReg x y => exact WordInRow.sneReg x y
  | ldI nnn => exact WordInRow.ldI nnn
  | jpV0 nnn => exact WordInRow.jpV0 nnn
  | rnd x kk => exact WordInRow.rnd x kk
  | drw x y n => exact WordInRow.drw x y n
  | skp x => exact WordInRow.skp x
  | sknp x => exact WordInRow.sknp x
  | ldVxDt x => exact WordInRow.ldVxDt x
  | ldVxK x => exact WordInRow.ldVxK x
  | ldDtVx x => exact WordInRow.ldDtVx x
  | ldStVx x => exact WordInRow.ldStVx x
  | addI x => exact WordInRow.addI x
  | ldF x => exact WordInRow.ldF x
  | ldB x => exact WordInRow.ldB x
  | storeRegs x => exact WordInRow.storeRegs x
  | loadRegs x => exact WordInRow.loadRegs x

/-- A full mask drops no bit. -/
theorem eq_of_and_full {n : Nat} {a b c : BitVec n} (h : a &&& b = c) (hb : b = BitVec.allOnes n) : a = c := by
  rw [← h, hb, BitVec.and_allOnes]

/-! Where the mask of a row is full in a field, a word of the row has that field of the row's value. -/

theorem fieldGrp_of_covers {v m w : Word} (h : Row.covers ⟨v, m⟩ w = true) (hm : fieldGrp m = 0xF#4) : fieldGrp w = fieldGrp v := by
  obtain rfl : w &&& m = v := beq_iff_eq.1 h
  exact eq_of_and_full (BitVec.extractLsb'_and ..).symm hm

theorem fieldN_of_covers {v m w : Word} (h : Row.covers ⟨v, m⟩ w = true) (hm : fieldN m = 0xF#4) : fieldN w = fieldN v := by
  obtain rfl : w &&& m = v := beq_iff_eq.1 h
  exact eq_of_and_full (BitVec.extractLsb'_and ..).symm hm

theorem fieldKk_of_covers {v m w : Word} (h : Row.covers ⟨v, m⟩ w = true) (hm : fieldKk m = 0xFF#8) : fieldKk w = fieldKk v := by
  obtain rfl : w &&& m = v := beq_iff_eq.1 h
  exact eq_of_and_full (BitVec.extractLsb'_and ..).symm hm

/-- A fixed word: the row covers that word only. -/
theorem fixed_of_covers {v w : Word} (h : Row.covers ⟨v, BitVec.allOnes 16⟩ w = true) : v = w :=
  (eq_of_and_full (beq_iff_eq.1 h) rfl).symm

/-- Formats NNN, XKK and XYN: the group is fixed. -/
theorem group_of_covers {v w : Word} (g : BitVec 4) (h : Row.covers ⟨v, 0xF000⟩ w = true) (hv : fieldGrp v = g) :
    g ++ fieldNnn w = w ∧ g ++ fieldX w ++ fieldKk w = w ∧ g ++ fieldX w ++ fieldY w ++ fieldN w = w :=
  word_of_group (congrArg BitVec.toNat ((fieldGrp_of_covers h (by decide)).trans hv))

/-- Format XYS: the low nibble is fixed too. -/
theorem xys_of_covers {v w : Word} (g n : BitVec 4) (h : Row.covers ⟨v, 0xF00F⟩ w = true)
    (hv : fieldGrp v = g ∧ fieldN v = n) :
    g ++ fieldX w ++ fieldY w ++ n = w := by
  rw [← hv.1, ← hv.2, ← fieldGrp_of_covers h (by decide), ← fieldN_of_covers h (by decide), xyn_of_fields]

/-- Format XSS: the low byte is fixed too. -/
theorem xss_of_covers {v w : Word} (g : BitVec 4) (ss : Byte) (h : Row.covers ⟨v, 0xF0FF⟩ w = true)
    (hv : fieldGrp v = g ∧ fieldKk v = ss) : g ++ fieldX w ++ ss = w := by
  rw [← hv.1, ← hv.2, ← fieldGrp_of_covers h (by decide), ← fieldKk_of_covers h (by decide), xkk_of_fields]

/-- Every word of a row is the word of some instruction of the row: its own fields are the operands. -/
theorem encodeWord_of_covers {j : Instr} {w : Word} (h : j.row.covers w = true) :
    ∃ i : Instr, encodeWord i = w ∧ i.row = j.row := by
  cases j with
  | cls => exact ⟨.cls, fixed_of_covers h, rfl⟩
  | ret => exact ⟨.ret, fixed_of_covers h, rfl⟩
  | sys _ => exact ⟨.sys _, (group_of_covers 0x0#4 h (by decide)).1, rfl⟩
  | jp _ => exact ⟨.jp _, (group_of_covers 0x1#4 h (by decide)).1, rfl⟩
  | call _ => exact ⟨.call _, (group_of_covers 0x2#4 h (by decide)).1, rfl⟩
  | seImm _ _ => exact ⟨.seImm _ _, (group_of_covers 0x3#4 h (by decide)).2.1, rfl⟩
  | sneImm _ _ => exact ⟨.sneImm _ _, (group_of_covers 0x4#4 h (by decide)).2.1, rfl⟩
  | seReg _ _ => exact ⟨.seReg _ _, xys_of_covers 0x5#4 0x0#4 h (by decide), rfl⟩
  | ldImm _ _ => exact ⟨.ldImm _ _, (group_of_covers 0x6#4 h (by decide)).2.1, rfl⟩
  | addImm _ _ => exact ⟨.addImm _ _, (group_of_covers 0x7#4 h (by decide)).2.1, rfl⟩
  | ldReg _ _ => exact ⟨.ldReg _ _, xys_of_covers 0x8#4 0x0#4 h (by decide), rfl⟩
  | orReg _ _ => exact ⟨.orReg _ _, xys_of_covers 0x8#4 0x1#4 h (by decide), rfl⟩
  | andReg _ _ => exact ⟨.andReg _ _, xys_of_covers 0x8#4 0x2#4 h (by decide), rfl⟩
  | xorReg _ _ => exact ⟨.xorReg _ _, xys_of_covers 0x8#4 0x3#4 h (by decide), rfl⟩
  | addReg _ _ => exact ⟨.addReg _ _, xys_of_covers 0x8#4 0x4#4 h (by decide), rfl⟩
  | sub _ _ => exact ⟨.sub _ _, xys_of_covers 0x8#4 0x5#4 h (by decide), rfl⟩
  | shr _ _ => exact ⟨.shr _ _, xys_of_covers 0x8#4 0x6#4 h (by decide), rfl⟩
  | subn _ _ => exact ⟨.subn _ _, xys_of_covers 0x8#4 0x7#4 h (by decide), rfl⟩
  | shl _ _ => exact ⟨.shl _ _, xys_of_covers 0x8#4 0xE#4 h (by decide), rfl⟩
  | sneReg _ _ => exact ⟨.sneReg _ _, xys_of_covers 0x9#4 0x0#4 h (by decide), rfl⟩
  | ldI _ => exact ⟨.ldI _, (group_of_covers 0xA#4 h (by decide)).1, rfl⟩
  | jpV0 _ => exact ⟨.jpV0 _, (group_of_covers 0xB#4 h (by decide)).1, rfl⟩
  | rnd _ _ => exact ⟨.rnd _ _, (group_of_covers 0xC#4 h (by decide)).2.1, rfl⟩
  | drw _ _ _ => exact ⟨.drw _ _ _, (group_of_covers 0xD#4 h (by decide)).2.2, rfl⟩
  | skp _ => exact ⟨.skp _, xss_of_covers 0xE#4 0x9E#8 h (by decide), rfl⟩
  | sknp _ => exact ⟨.sknp _, xss_of_covers 0xE#4 0xA1#8 h (by decide), rfl⟩
  | ldVxDt _ => exact ⟨.ldVxDt _, xss_of_covers 0xF#4 0x07#8 h (by decide), rfl⟩
  | ldVxK _ => exact ⟨.ldVxK _, xss_of_covers 0xF#4 0x0A#8 h (by decide), rfl⟩
  | ldDtVx _ => exact ⟨.ldDtVx _, xss_of_covers 0xF#4 0x15#8 h (by decide), rfl⟩
  | ldStVx _ => exact ⟨.ldStVx _, xss_of_covers 0xF#4 0x18#8 h (by decide), rfl⟩
  | addI _ => exact ⟨.addI _, xss_of_covers 0xF#4 0x1E#8 h (by decide), rfl⟩
  | ldF _ => exact ⟨.ldF _, xss_of_covers 0xF#4 0x29#8 h (by decide), rfl⟩
  | ldB _ => exact ⟨.ldB _, xss_of_covers 0xF#4 0x33#8 h (by decide), rfl⟩
  | storeRegs _ => exact ⟨.storeRegs _, xss_of_covers 0xF#4 0x55#8 h (by decide), rfl⟩
  | loadRegs _ => exact ⟨.loadRegs _, xss_of_covers 0xF#4 0x65#8 h (by decide), rfl⟩

/-- An instruction of a row other than the SYS row, or whose word is neither fixed word, is well formed. -/
theorem wellFormed_of_row {i : Instr} (h : i.row = ⟨0x0000, 0xF000⟩ → encodeWord i ≠ 0x00E0 ∧ encodeWord i ≠ 0x00EE) :
    i.wellFormed = true := by
  cases i with
  | sys nnn =>
    obtain ⟨hcls, hret⟩ := h rfl
    exact wellFormed_sys hcls hret
  | _ => rfl

end Sys2Proof.Laws.Rows

open Sys2Proof Sys2Proof.Laws.RoundTrip Sys2Proof.Laws.Rows

/-- Settles O2: format by format, the fields of the word are the operands. -/
theorem decodeOfEncode : Obligations.DecodeOfEncode := fun _ h => ⟨decodeWord_encodeWord h, decode_encode h⟩

/-- Settles O3: group by group, the fields of the word put together again. -/
theorem encodeOfDecode : Obligations.EncodeOfDecode := fun _ _ => encodeWord_of_decodeWord

/-- Settles O4: a word that decodes is its instruction's word, which lies in the row; and a word of a row is the word of a well-formed
instruction of that row, which it decodes to. -/
theorem rowSelectsForm : Obligations.RowSelectsForm := by
  refine ⟨fun w i h => ?_, fun w j hj hfixed => ?_⟩
  · exact (encodeWord_of_decodeWord h).2 ▸ covers_encodeWord i
  · obtain ⟨i, rfl, hrow⟩ := encodeWord_of_covers hj
    exact ⟨i, decodeWord_encodeWord (wellFormed_of_row (hrow ▸ hfixed)), hrow⟩

/-- Settles O5: in each of the sixteen groups, by the selector where the group has one. -/
theorem illegalWordsListed : Obligations.IllegalWordsListed := by
  intro w
  rw [← decodeGroup8_eq_none (fieldX w) (fieldY w), ← decodeGroupE_eq_none (fieldX w), ← decodeGroupF_eq_none (fieldX w)]
  unfold decodeWord
  generalize fieldGrp w = g
  obtain ⟨k⟩ := g
  fin_cases k <;> simp [← BitVec.toNat_inj (n := 4)]

/-- Settles O1: the ten words, evaluated. -/
theorem sampleWordsDecode : Obligations.SampleWordsDecode := by
  unfold Obligations.SampleWordsDecode
  decide

namespace Sys2Proof.Laws.Exec

open Sys2Proof Sys2Proof.Machine Sys2Proof.Laws.State Sys2Proof.Laws.Ops

/-! What the instructions execute to. -/

theorem exec_sys (nnn : BitVec 12) (s : State) : exec (.sys nnn) s = .next s := rfl

theorem exec_jp (nnn : BitVec 12) (s : State) : exec (.jp nnn) s = .next (s.setPc (absolute nnn)) := rfl

theorem exec_jpV0 (nnn : BitVec 12) (s : State) : exec (.jpV0 nnn) s = .next (s.setPc (s.indexedTarget nnn)) := rfl

theorem exec_call_of_room (nnn : BitVec 12) {s : State} (h : s.sp.val < 16) :
    exec (.call nnn) s = .next ((s.push s.pc h).setPc (absolute nnn)) := by
  simp [exec, execCall, h]

theorem exec_call_of_full (nnn : BitVec 12) {s : State} (h : ¬ s.sp.val < 16) :
    exec (.call nnn) s = .next (s.raise .stackOverflow s.pc) := by
  simp [exec, execCall, h]

theorem exec_ret_of_pos {s : State} (h : s.sp.val ≠ 0) :
    exec .ret s = .next (s.dropTop.setPc (s.stackEntry (s.sp.val - 1) + 2)) := by
  simp only [exec, execRet, h, if_false]; rfl

theorem exec_ret_of_empty {s : State} (h : s.sp.val = 0) : exec .ret s = .next (s.raise .stackUnderflow s.pc) := by
  simp [exec, execRet, h]

theorem exec_seReg (x y : RegNum) (s : State) :
    exec (.seReg x y) s = .next (s.skipIf (decide (s.getReg x = s.getReg y))) := rfl

theorem exec_sneReg (x y : RegNum) (s : State) :
    exec (.sneReg x y) s = .next (s.skipIf (decide (s.getReg x ≠ s.getReg y))) := rfl

theorem exec_addReg (x y : RegNum) (s : State) : exec (.addReg x y) s =
    .next ((s.setFlag (carryFlag (s.getReg x) (s.getReg y))).setReg x (s.getReg x + s.getReg y)).advance := rfl

/-- The subtractions and the shifts read their operands after the flag write (R83 to R87). -/
theorem exec_sub (x y : RegNum) (s : State) {t : State} (ht : t = s.setFlag (greaterFlag (s.getReg x) (s.getReg y))) :
    exec (.sub x y) s = .next (t.setReg x (t.getReg x - t.getReg y)).advance := by
  subst ht; rfl

theorem exec_subn (x y : RegNum) (s : State) {t : State} (ht : t = s.setFlag (greaterFlag (s.getReg y) (s.getReg x))) :
    exec (.subn x y) s = .next (t.setReg x (t.getReg y - t.getReg x)).advance := by
  subst ht; rfl

theorem exec_shr (x y : RegNum) (s : State) {t : State} (ht : t = s.setFlag (lowBitFlag (s.getReg x))) :
    exec (.shr x y) s = .next (t.setReg x (t.getReg x >>> 1)).advance := by
  subst ht; rfl

theorem exec_shl (x y : RegNum) (s : State) {t : State} (ht : t = s.setFlag (highBitFlag (s.getReg x))) :
    exec (.shl x y) s = .next (t.setReg x (t.getReg x <<< 1)).advance := by
  subst ht; rfl

theorem exec_rnd (x : RegNum) (kk : Byte) (s : State) :
    exec (.rnd x kk) s = .next (s.nextDraw.setReg x (Config.randomByte s.draws &&& kk)).advance := rfl

theorem exec_addI (x : RegNum) (s : State) :
    exec (.addI x) s = .next (s.setI (s.i + (s.getReg x).zeroExtend 16)).advance := rfl

theorem exec_ldF (x : RegNum) (s : State) : exec (.ldF x) s = .next (s.setI (glyphAddr (s.getReg x))).advance := rfl

theorem exec_ldStVx (x : RegNum) (s : State) : exec (.ldStVx x) s = .next (s.setSt (s.getReg x)).advance := rfl

theorem exec_ldVxK_of_none (x : RegNum) {s : State} (h : s.chosenKey = none) : exec (.ldVxK x) s = .next s := by
  simp [exec, execLdVxK, h]

theorem exec_ldVxK_of_some (x : RegNum) {s : State} {k : Byte} (h : s.chosenKey = some k) :
    exec (.ldVxK x) s = .next (s.nextDraw.setReg x k).advance := by
  simp [exec, execLdVxK, h]

theorem exec_skp_of_key {x : RegNum} {s : State} (h : ¬ 15 < (s.getReg x).toNat) :
    exec (.skp x) s = .next (s.skipIf (s.keyDown (s.getReg x).toNat)) := by
  simp [exec, execSkp, h]

theorem exec_sknp_of_key {x : RegNum} {s : State} (h : ¬ 15 < (s.getReg x).toNat) :
    exec (.sknp x) s = .next (s.skipIf (!s.keyDown (s.getReg x).toNat)) := by
  simp [exec, execSknp, h]

theorem exec_skp_of_range {x : RegNum} {s : State} (h : 15 < (s.getReg x).toNat) :
    exec (.skp x) s = .next (s.raise .keyRange ((s.getReg x).zeroExtend 16)) := by
  simp [exec, execSkp, h]

theorem exec_sknp_of_range {x : RegNum} {s : State} (h : 15 < (s.getReg x).toNat) :
    exec (.sknp x) s = .next (s.raise .keyRange ((s.getReg x).zeroExtend 16)) := by
  simp [exec, execSknp, h]

/-! The four instructions that access memory: in bounds, and out of them (R39, R115). -/

/-- The decimal digits of a byte, in the order `Fx33` stores them (R94). -/
def digits (b : Byte) : List Byte := [hundreds b, tens b, ones b]

theorem exec_ldB_of_inBounds (x : RegNum) {s : State} (h : s.memBounds 3 = none) :
    exec (.ldB x) s = .next (s.writeBytes (s.dataAddr 0) (digits (s.getReg x))).advance := by
  simp only [exec, execLdB, h]; rfl

theorem exec_storeRegs_of_inBounds {x : RegNum} {s : State} (h : s.memBounds (regCount x) = none) :
    exec (.storeRegs x) s = .next (s.storeFirst (s.dataAddr 0) (regCount x)).advance := by
  simp [exec, execStoreRegs, h]

theorem exec_loadRegs_of_inBounds {x : RegNum} {s : State} (h : s.memBounds (regCount x) = none) :
    exec (.loadRegs x) s = .next (s.loadFirst (s.dataAddr 0) (regCount x)).advance := by
  simp [exec, execLoadRegs, h]

theorem exec_drw_of_inBounds {x y : RegNum} {n : BitVec 4} {s : State} (h : s.memBounds n.toNat = none)
    (hd : displayBounds (s.drawTargets x y n) = none) : exec (.drw x y n) s = .next (s.draw (s.drawTargets x y n)) := by
  simp [exec, execDrw, h, hd]

theorem exec_drw_of_offDisplay {x y : RegNum} {n : BitVec 4} {s : State} {info : Word} (h : s.memBounds n.toNat = none)
    (hd : displayBounds (s.drawTargets x y n) = some info) : exec (.drw x y n) s = .next (s.raise .displayBounds info) := by
  simp [exec, execDrw, h, hd]

theorem exec_ldB_of_outOfBounds (x : RegNum) {s : State} {info : Word} (h : s.memBounds 3 = some info) :
    exec (.ldB x) s = .next (s.raise .memBounds info) := by
  simp [exec, execLdB, h]

theorem exec_storeRegs_of_outOfBounds {x : RegNum} {s : State} {info : Word} (h : s.memBounds (regCount x) = some info) :
    exec (.storeRegs x) s = .next (s.raise .memBounds info) := by
  simp [exec, execStoreRegs, h]

theorem exec_loadRegs_of_outOfBounds {x : RegNum} {s : State} {info : Word} (h : s.memBounds (regCount x) = some info) :
    exec (.loadRegs x) s = .next (s.raise .memBounds info) := by
  simp [exec, execLoadRegs, h]

theorem exec_drw_of_outOfBounds (x y : RegNum) {n : BitVec 4} {s : State} {info : Word} (h : s.memBounds n.toNat = some info) :
    exec (.drw x y n) s = .next (s.raise .memBounds info) := by
  simp [exec, execDrw, h]

end Sys2Proof.Laws.Exec

namespace Sys2Proof.Laws.Updates

open Sys2Proof Sys2Proof.Machine Sys2Proof.Laws.State Sys2Proof.Laws.Ops

/-! The frames of the updates that instructions are made of. -/

/-- Two updates in a row: what either writes is written. -/
theorem frame_seq {W X Y : Part → Prop} {s t u : State} (h : Machine.Frame W s t) (k : Machine.Frame X t u)
    (hW : ∀ p, W p → Y p) (hX : ∀ p, X p → Y p) : Machine.Frame Y s u :=
  Frame.trans (Frame.mono h hW) (Frame.mono k hX)

/-- An update followed by the advance of `pc`. -/
theorem frame_advance {W : Part → Prop} {s t : State} (h : Machine.Frame W s t) :
    Machine.Frame (fun p => p = .pc ∨ W p) s t.advance :=
  frame_seq h (Frame.advance t) (fun _ => Or.inr) (fun _ => Or.inl)

/-- A flag write, a register write, and the advance. -/
theorem flagWrite_frame (s : State) (f : Byte) (x : RegNum) (b : Byte) :
    Machine.Frame (fun p => p = .pc ∨ p = .reg x ∨ p = .reg flagReg) s ((s.setFlag f).setReg x b).advance :=
  frame_advance (frame_seq (Frame.setFlag s f) (Frame.setReg _ x b) (fun _ => Or.inr) (fun _ => Or.inl))

/-- A free draw, a register write, and the advance. -/
theorem drawnWrite_frame (s : State) (x : RegNum) (b : Byte) :
    Machine.Frame (fun p => p = .pc ∨ p = .reg x ∨ p = .draws) s (s.nextDraw.setReg x b).advance :=
  frame_advance (frame_seq (Frame.nextDraw s) (Frame.setReg _ x b) (fun _ => Or.inr) (fun _ => Or.inl))

theorem setSt_advance_frame (s : State) (a : Byte) : Machine.Frame (fun p => p = .pc ∨ p = .st) s (s.setSt a).advance :=
  frame_advance (Frame.setSt s a)

theorem push_setPc_frame (s : State) (a b : Word) (h : s.sp.val < 16) :
    Machine.Frame (fun p => p = .pc ∨ p = .sp ∨ p = .entry s.sp.val) s ((s.push a h).setPc b) :=
  frame_seq (push_frame s a h) (Frame.setPc _ b) (fun _ => Or.inr) (fun _ => Or.inl)

theorem dropTop_setPc_frame (s : State) (b : Word) : Machine.Frame (fun p => p = .pc ∨ p = .sp) s (s.dropTop.setPc b) :=
  frame_seq (Frame.setSp s _) (Frame.setPc _ b) (fun _ => Or.inr) (fun _ => Or.inl)

/-! The accesses at `I` upward: their addresses and the registers they reach (R39, R95, R96). -/

theorem dataAddr_eq_add (s : State) (n : Nat) : s.dataAddr n = s.dataAddr 0 + n := by
  simp [State.dataAddr]

theorem regCount_le (x : RegNum) : regCount x ≤ 16 := x.isLt

theorem lt_regCount {x r : RegNum} : r.toNat < regCount x ↔ r.toNat ≤ x.toNat := Nat.lt_succ_iff

/-- An access that passes the bounds check ends inside the 4096 bytes. -/
theorem dataAddr_end_le {s : State} {n : Nat} (hn : 0 < n) (h : s.memBounds n = none) : s.dataAddr 0 + n ≤ 4096 := by
  have := (memBounds_eq_none s n).1 h
  simp only [State.dataAddr]; omega

theorem storeFirst_pc (s : State) (base n : Nat) : (s.storeFirst base n).pc = s.pc := by
  obtain ⟨m, hm⟩ := storeFirst_frame s base n
  rw [hm, setMem_pc]

theorem loadFirst_pc (s : State) (base n : Nat) : (s.loadFirst base n).pc = s.pc := by
  obtain ⟨w, hw⟩ := loadFirst_frame s base n
  rw [hw, setV_pc]

theorem storeFirst_advance_frame (s : State) (n : Nat) :
    Machine.Frame (fun p => p = .pc ∨ ∃ a, p = .byte a ∧ s.dataAddr 0 ≤ a ∧ a < s.dataAddr n) s
      (s.storeFirst (s.dataAddr 0) n).advance := by
  rw [dataAddr_eq_add s n]
  exact frame_advance (Frame.storeFirst s (s.dataAddr 0) n)

theorem loadFirst_advance_frame (s : State) (base : Nat) (x : RegNum) :
    Machine.Frame (fun p => p = .pc ∨ ∃ r, p = .reg r ∧ r.toNat ≤ x.toNat) s (s.loadFirst base (regCount x)).advance := by
  have hframe := frame_advance (Frame.loadFirst s base (regCount x) (regCount_le x))
  simpa only [lt_regCount] using hframe

/-- A draw over cells that are on the display and named once each writes those cells only. -/
theorem draw_frame {s : State} {ks : List Nat} (hk : ks.Nodup) (hlt : ∀ k ∈ ks, k < 2048) :
    Machine.Frame (fun p => p = .pc ∨ p = .reg flagReg ∨ p = .render ∨ ∃ k, p = .cell k ∧ k ∈ ks) s (s.draw ks) := by
  have hother : ∀ k, k ∉ ks → (flipCells s.disp ks false).1.getLsbD k = s.disp.getLsbD k := fun k h => by
    simp [(flipCells_spec s.disp ks false hk hlt).1 k, h]
  have hflag := frame_seq (Frame.setDisp s _ (· ∈ ks) hother) (Frame.setFlag _ (flagByte (flipCells s.disp ks false).2))
    (fun _ => Or.inr) fun _ => Or.inl
  exact frame_advance (frame_seq hflag (Frame.setRender _ true) (fun _ => Or.imp_right Or.inr) fun _ => Or.inr ∘ Or.inl)

/-! The rules of the invariant: what each update must respect to keep it. Updates of registers, `I`, display, timers, keys, schedule and
draws are of parts that it does not speak of. -/

theorem inv_setPc {s : State} {a : Word} (h : s.Inv) (ha : a.toNat ≤ 0x10FE) : (s.setPc a).Inv := by
  obtain ⟨hmem, -, hstack, hlatch⟩ := h
  exact ⟨hmem, ha, hstack, hlatch⟩

theorem inv_advance {s : State} (h : s.Inv) (hp : s.pc.toNat ≤ 4094) : s.advance.Inv := by
  refine inv_setPc h ?_
  rw [BitVec.toNat_add, show (2 : Word).toNat = 2 from rfl]; omega

theorem inv_skipIf {s : State} (h : s.Inv) (hp : s.pc.toNat ≤ 4094) (c : Bool) : (s.skipIf c).Inv := by
  refine inv_setPc h ?_
  rw [BitVec.toNat_add]
  cases c
  · rw [show (if false = true then 4 else 2 : Word).toNat = 2 from rfl]; omega
  · rw [show (if true = true then 4 else 2 : Word).toNat = 4 from rfl]; omega

theorem inv_setMem {s : State} {m : Memory} (h : s.Inv) (hm : m.wf) : (s.setMem m).Inv := by
  obtain ⟨-, hpc, hstack, hlatch⟩ := h
  exact ⟨hm, hpc, hstack, hlatch⟩

/-- A fault writes a cause that is not zero (R111). -/
theorem inv_raise {s : State} (h : s.Inv) (f : Trap) (info : Word) : (s.raise f info).Inv := by
  obtain ⟨hmem, hpc, hstack, -⟩ := h
  have hcode : f.code ≠ 0 := by cases f <;> decide
  exact ⟨hmem, hpc, hstack, hcode⟩

theorem inv_push {s : State} (h : s.Inv) {a : Word} (ha : a.toNat ≤ 4094) (hr : s.sp.val < 16) : (s.push a hr).Inv := by
  obtain ⟨hmem, hpc, hstack, hlatch⟩ := h
  refine ⟨hmem, hpc, fun k (hk : k < s.sp.val + 1) => ?_, hlatch⟩
  rw [stackEntry_push]
  split
  · exact ha
  · exact hstack k (by omega)

theorem inv_dropTop {s : State} (h : s.Inv) : s.dropTop.Inv := by
  obtain ⟨hmem, hpc, hstack, hlatch⟩ := h
  exact ⟨hmem, hpc, fun k (hk : k < s.sp.val - 1) => hstack k (by omega), hlatch⟩

theorem inv_writeBytes {s : State} (h : s.Inv) {a : Nat} {bs : List Byte} (hb : a + bs.length ≤ 4096) :
    (s.writeBytes a bs).Inv := by
  have hwf := wf_writeBytes s a bs h.1 hb
  obtain ⟨m, hm⟩ := writeBytes_frame s a bs
  rw [hm] at hwf ⊢
  exact inv_setMem h hwf

theorem inv_storeFirst {s : State} (h : s.Inv) {base n : Nat} (hb : base + n ≤ 4096) : (s.storeFirst base n).Inv := by
  have hwf := wf_storeFirst s base n h.1 hb
  obtain ⟨m, hm⟩ := storeFirst_frame s base n
  rw [hm] at hwf ⊢
  exact inv_setMem h hwf

theorem inv_loadFirst {s : State} (h : s.Inv) (base n : Nat) : (s.loadFirst base n).Inv := by
  obtain ⟨w, hw⟩ := loadFirst_frame s base n
  rw [hw]; exact h

/-- The returning address is two past an entry in use (R65). -/
theorem inv_return {s : State} (h : s.Inv) (hs : s.sp.val ≠ 0) :
    (s.dropTop.setPc (s.stackEntry (s.sp.val - 1) + 2)).Inv := by
  refine inv_setPc (inv_dropTop h) ?_
  obtain ⟨-, -, hstack, -⟩ := h
  have := hstack (s.sp.val - 1) (by omega)
  rw [BitVec.toNat_add, show (2 : Word).toNat = 2 from rfl]; omega

end Sys2Proof.Laws.Updates

namespace Sys2Proof.Laws.Total

open Sys2Proof Sys2Proof.Machine Sys2Proof.Laws.State Sys2Proof.Laws.Ops Sys2Proof.Laws.Exec Sys2Proof.Laws.Updates

/-- What an instruction answers: a next state, in which either one of its own faults wrote the latch, or only its own parts are written
and, where the core could fetch, the invariant is kept. -/
def Answers (i : Instr) (s : State) : Prop :=
  ∃ t, exec i s = .next t ∧
    ((∃ f info, Instr.mayRaise i f = true ∧ t = s.raise f info) ∨
      (Machine.Frame (Instr.writes i s) s t ∧ (s.Inv → s.pc.toNat ≤ 4094 → t.Inv)))

theorem answers_raise {i : Instr} {s : State} {f : Trap} {info : Word} (h : exec i s = .next (s.raise f info))
    (hi : Instr.mayRaise i f = true) : Answers i s :=
  ⟨_, h, .inl ⟨f, info, hi, rfl⟩⟩

theorem answers_next {i : Instr} {s t : State} (h : exec i s = .next t) (hf : Machine.Frame (Instr.writes i s) s t)
    (hinv : s.Inv → s.pc.toNat ≤ 4094 → t.Inv) : Answers i s :=
  ⟨t, h, .inr ⟨hf, hinv⟩⟩

/-- An instruction that leaves `pc` to the advance. -/
theorem answers_advance {i : Instr} {s u : State} (h : exec i s = .next u.advance) (hf : Machine.Frame (Instr.writes i s) s u.advance)
    (hu : s.Inv → u.Inv) (hpc : u.pc = s.pc) : Answers i s :=
  answers_next h hf fun hs hp => inv_advance (hu hs) (hpc ▸ hp)

theorem answers_skipIf {i : Instr} {s : State} {c : Bool} (h : exec i s = .next (s.skipIf c))
    (hw : ∀ p, p = .pc → Instr.writes i s p) : Answers i s :=
  answers_next h (Frame.mono (Frame.skipIf s c) hw) fun hs hp => inv_skipIf hs hp c

theorem answers_jump {i : Instr} {s : State} {a : Word} (h : exec i s = .next (s.setPc a)) (ha : a.toNat ≤ 0x10FE)
    (hw : ∀ p, p = .pc → Instr.writes i s p) : Answers i s :=
  answers_next h (Frame.mono (Frame.setPc s a) hw) fun hs _ => inv_setPc hs ha

theorem absolute_le (nnn : BitVec 12) : (absolute nnn).toNat ≤ 0x10FE := by
  have := nnn.isLt
  rw [absolute_toNat]; omega

theorem indexedTarget_le (s : State) (nnn : BitVec 12) : (s.indexedTarget nnn).toNat ≤ 0x10FE := by
  have := nnn.isLt
  have := (s.getReg 0).isLt
  rw [indexedTarget_toNat]; omega

theorem answers_call (nnn : BitVec 12) (s : State) : Answers (.call nnn) s := by
  by_cases h : s.sp.val < 16
  · exact answers_next (exec_call_of_room nnn h) (push_setPc_frame s s.pc (absolute nnn) h)
      fun hs hp => inv_setPc (inv_push hs hp h) (absolute_le nnn)
  · exact answers_raise (exec_call_of_full nnn h) rfl

theorem answers_ret (s : State) : Answers .ret s := by
  by_cases h : s.sp.val = 0
  · exact answers_raise (exec_ret_of_empty h) rfl
  · exact answers_next (exec_ret_of_pos h) (dropTop_setPc_frame s _) fun hs _ => inv_return hs h

theorem answers_drw (x y : RegNum) (n : BitVec 4) (s : State) : Answers (.drw x y n) s := by
  rcases h : s.memBounds n.toNat with _ | info
  · rcases hd : displayBounds (s.drawTargets x y n) with _ | info
    · have hlt := (Sprite.displayBounds_eq_none _).1 hd
      exact answers_advance (exec_drw_of_inBounds h hd) (draw_frame (Sprite.nodup_drawTargets s x y n) hlt) id rfl
    · exact answers_raise (exec_drw_of_offDisplay h hd) rfl
  · exact answers_raise (exec_drw_of_outOfBounds x y h) rfl

theorem answers_skp (x : RegNum) (s : State) : Answers (.skp x) s := by
  by_cases h : 15 < (s.getReg x).toNat
  · exact answers_raise (exec_skp_of_range h) rfl
  · exact answers_skipIf (exec_skp_of_key h) fun _ => id

theorem answers_sknp (x : RegNum) (s : State) : Answers (.sknp x) s := by
  by_cases h : 15 < (s.getReg x).toNat
  · exact answers_raise (exec_sknp_of_range h) rfl
  · exact answers_skipIf (exec_sknp_of_key h) fun _ => id

theorem answers_ldVxK (x : RegNum) (s : State) : Answers (.ldVxK x) s := by
  rcases h : s.chosenKey with _ | k
  · exact answers_next (exec_ldVxK_of_none x h) (Frame.refl _ s) fun hs _ => hs
  · exact answers_advance (exec_ldVxK_of_some x h) (drawnWrite_frame s x k) id rfl

theorem answers_ldB (x : RegNum) (s : State) : Answers (.ldB x) s := by
  rcases h : s.memBounds 3 with _ | info
  · have hpc : (s.writeBytes (s.dataAddr 0) (digits (s.getReg x))).pc = s.pc := rfl
    exact answers_advance (exec_ldB_of_inBounds x h) (frame_advance (Frame.writeBytes s _ (digits (s.getReg x))))
      (fun hs => inv_writeBytes hs (dataAddr_end_le (Nat.succ_pos 2) h)) hpc
  · exact answers_raise (exec_ldB_of_outOfBounds x h) rfl

theorem answers_storeRegs (x : RegNum) (s : State) : Answers (.storeRegs x) s := by
  rcases h : s.memBounds (regCount x) with _ | info
  · exact answers_advance (exec_storeRegs_of_inBounds h) (storeFirst_advance_frame s (regCount x))
      (fun hs => inv_storeFirst hs (dataAddr_end_le (Nat.succ_pos _) h)) (storeFirst_pc ..)
  · exact answers_raise (exec_storeRegs_of_outOfBounds h) rfl

theorem answers_loadRegs (x : RegNum) (s : State) : Answers (.loadRegs x) s := by
  rcases h : s.memBounds (regCount x) with _ | info
  · exact answers_advance (exec_loadRegs_of_inBounds h) (loadFirst_advance_frame s _ x)
      (fun hs => inv_loadFirst hs _ _) (loadFirst_pc ..)
  · exact answers_raise (exec_loadRegs_of_outOfBounds h) rfl

/-- Every instruction from every state: the simple ones by the update each is, the others by the lemma on their checks. -/
theorem answers (i : Instr) (s : State) : Answers i s := by
  cases i with
  | cls => exact answers_advance (Display.exec_cls s) (Display.setDisp_setRender_advance_frame s 0) id rfl
  | ret => exact answers_ret s
  | sys nnn => exact answers_next (exec_sys nnn s) (Frame.refl _ s) fun hs _ => hs
  | jp nnn => exact answers_jump (exec_jp nnn s) (absolute_le nnn) fun _ => id
  | jpV0 nnn => exact answers_jump (exec_jpV0 nnn s) (indexedTarget_le s nnn) fun _ => id
  | call nnn => exact answers_call nnn s
  | seImm _ _ | sneImm _ _ | seReg _ _ | sneReg _ _ => exact answers_skipIf rfl fun _ => id
  | ldImm _ _ | addImm _ _ | ldReg _ _ | orReg _ _ | andReg _ _ | xorReg _ _ | ldVxDt _ =>
    exact answers_advance rfl (Alu.setReg_advance_frame s _ _) id rfl
  | addReg _ _ | sub _ _ | shr _ _ | subn _ _ | shl _ _ => exact answers_advance rfl (flagWrite_frame s _ _ _) id rfl
  | rnd _ _ => exact answers_advance rfl (drawnWrite_frame s _ _) id rfl
  | ldI _ | addI _ | ldF _ => exact answers_advance rfl (IndexMemory.setI_advance_frame s _) id rfl
  | ldDtVx _ => exact answers_advance rfl (KeysTimers.setDt_advance_frame s _) id rfl
  | ldStVx _ => exact answers_advance rfl (setSt_advance_frame s _) id rfl
  | drw x y n => exact answers_drw x y n s
  | skp x => exact answers_skp x s
  | sknp x => exact answers_sknp x s
  | ldVxK x => exact answers_ldVxK x s
  | ldB x => exact answers_ldB x s
  | storeRegs x => exact answers_storeRegs x s
  | loadRegs x => exact answers_loadRegs x s

/-- What holds of the next state of an instruction. -/
theorem exec_cases {i : Instr} {s t : State} (h : exec i s = .next t) :
    (∃ f info, Instr.mayRaise i f = true ∧ t = s.raise f info) ∨
      (Machine.Frame (Instr.writes i s) s t ∧ (s.Inv → s.pc.toNat ≤ 4094 → t.Inv)) := by
  obtain ⟨u, hu, hcases⟩ := answers i s
  rw [h] at hu
  cases hu
  exact hcases

/-- No instruction has the latch among its parts. -/
theorem not_writes_halted (i : Instr) (s : State) : ¬ Instr.writes i s .halted := by
  cases i <;> simp [Instr.writes]

/-- An instruction keeps the invariant, faulting or not. -/
theorem exec_inv {i : Instr} {s t : State} (h : exec i s = .next t) (hs : s.Inv) (hp : s.pc.toNat ≤ 4094) : t.Inv := by
  obtain ⟨f, info, -, rfl⟩ | ⟨-, hinv⟩ := exec_cases h
  · exact inv_raise hs f info
  · exact hinv hs hp

theorem inv_reset : State.reset.Inv :=
  ⟨Memory.wf_reset, by decide, fun k hk => absurd hk (Nat.not_lt_zero k), rfl, rfl⟩

/-- An Execute step keeps the invariant, whether it faults before the instruction or runs it. -/
theorem executeStep_inv {s t : State} (h : executeStep s = .next t) (hs : s.Inv) : t.Inv := by
  obtain ⟨-, ⟨-, rfl⟩ | ⟨-, -, rfl⟩ | ⟨hp, i, -, hexec⟩⟩ := Step.executeStep_cases h
  · exact inv_raise (s := s.setStarted true) hs _ _
  · exact inv_raise (s := s.fetched) hs _ _
  · exact exec_inv hexec hs hp

/-- Every move keeps the invariant. -/
theorem perform_inv {m : Move} {s t : State} (h : perform m s = .next t) (hs : s.Inv) : t.Inv := by
  obtain ⟨-, hexec⟩ | ⟨-, -, rfl⟩ | ⟨_, _, -, _, rfl⟩ | ⟨-, rfl⟩ | ⟨bytes, -, -, hlen, rfl⟩ | ⟨-, rfl⟩ :=
    Step.perform_cases h
  · exact executeStep_inv hexec hs
  · exact hs
  · exact hs
  · exact hs
  · exact inv_writeBytes hs (by omega)
  · exact inv_reset

end Sys2Proof.Laws.Total

open Sys2Proof.Laws.Total Sys2Proof.Machine

/-- Settles O58: nothing is listed in memory, no entry is in use, and the latch is clear. -/
theorem resetSatisfiesInvariant : Obligations.ResetSatisfiesInvariant := inv_reset

/-- Settles O59: a step is one move, and the schedule is no part of the invariant. -/
theorem stepKeepsInvariant : Obligations.StepKeepsInvariant := fun _ _ hs h => perform_inv h hs

/-- Settles O60, by induction on the number of steps. -/
theorem runKeepsInvariant : Obligations.RunKeepsInvariant := by
  intro n
  induction n with
  | zero => intro s t hs h; cases h; exact hs
  | succ n ih =>
    intro s t hs h
    obtain ⟨u, hstep, hrun⟩ := Sys2Proof.Laws.Step.run_succ_cases h
    exact ih u t (stepKeepsInvariant s u hs hstep) hrun

/-- Settles O10: every instruction has its answer. -/
theorem everyInstructionAnswers : Obligations.EveryInstructionAnswers := fun i s =>
  have ⟨t, h, _⟩ := answers i s
  ⟨t, h⟩

/-- Settles O12: the frame half of what every instruction answers. -/
theorem instructionsWriteOnlyTheirParts : Obligations.InstructionsWriteOnlyTheirParts := fun _ _ _ h =>
  (exec_cases h).imp_right And.left

/-- Settles O11: the latch is no part of any instruction, so only a fault halts. -/
theorem instructionFaultsArePrecise : Obligations.InstructionFaultsArePrecise := by
  intro i s t hs h ht
  obtain hfault | ⟨hframe, -⟩ := exec_cases h
  · exact hfault
  · have hsame : t.halted = s.halted := hframe .halted (not_writes_halted i s)
    rw [hsame, hs] at ht
    cases ht

namespace Sys2Proof.Laws.Flow

open Sys2Proof Sys2Proof.Machine Sys2Proof.Laws.State Sys2Proof.Laws.Ops Sys2Proof.Laws.Exec Sys2Proof.Laws.Updates

/-- The effect of an instruction that only writes `pc`. -/
theorem jump_effect {i : Instr} {s : State} {a : Word} (h : exec i s = .next (s.setPc a)) :
    ∃ t, exec i s = .next t ∧ t.pc.toNat = a.toNat ∧ Machine.Frame (fun p => p = .pc) s t :=
  ⟨_, h, rfl, Frame.setPc s a⟩

/-- In a state whose stack is as a push left it, the top entry is the one pushed (R65, R68). -/
theorem stackEntry_of_push {s u : State} {a : Word} (h : s.sp.val < 16) (hstack : u.stack = (s.push a h).stack)
    (hsp : u.sp = (s.push a h).sp) : u.sp.val = s.sp.val + 1 ∧ u.stackEntry (u.sp.val - 1) = a := by
  have hval : u.sp.val = s.sp.val + 1 := congrArg Fin.val hsp
  refine ⟨hval, ?_⟩
  rw [stackEntry_eq_of_stack hstack, stackEntry_push, if_pos (by omega)]

end Sys2Proof.Laws.Flow

open Sys2Proof Sys2Proof.Machine Sys2Proof.Laws.Exec Sys2Proof.Laws.Updates Sys2Proof.Laws.Flow Sys2Proof.Laws.Ops

/-- Settles O14: a write of `pc` with the absolute address. -/
theorem jumpWritesTarget : Obligations.JumpWritesTarget := fun nnn s =>
  absolute_toNat nnn ▸ jump_effect (exec_jp nnn s)

/-- Settles O15: the sum of 12 and 8 bits fits in 16, so it is exact. -/
theorem indexedJumpAddsV0 : Obligations.IndexedJumpAddsV0 := fun nnn s =>
  indexedTarget_toNat s nnn ▸ jump_effect (exec_jpV0 nnn s)

/-- Settles O16: a push of `pc`, then the jump. -/
theorem callPushesItsAddress : Obligations.CallPushesItsAddress := fun nnn s h =>
  ⟨_, exec_call_of_room nnn h, (stackEntry_push s s.pc h _).trans (if_pos rfl), rfl, absolute_toNat nnn,
    push_setPc_frame s s.pc _ h⟩

/-- Settles O17: the top entry is read, not written. -/
theorem returnPopsPastTheCall : Obligations.ReturnPopsPastTheCall := fun s h =>
  ⟨_, exec_ret_of_pos (Nat.ne_of_gt h), Nat.sub_add_cancel h, rfl, dropTop_setPc_frame s _⟩

/-- Settles O18: the entry that the return pops is the one that the call pushed. -/
theorem callThenReturnResumes : Obligations.CallThenReturnResumes := by
  intro nnn s t u v hroom hcall hstack hsp hret
  rw [exec_call_of_room nnn hroom] at hcall
  cases hcall
  obtain ⟨hval, hentry⟩ := stackEntry_of_push hroom hstack hsp
  rw [exec_ret_of_pos (by omega), hentry] at hret
  cases hret
  refine ⟨rfl, Fin.ext ?_⟩
  change u.sp.val - 1 = s.sp.val
  omega

/-- Settles O19: the fault branches of the two instructions. -/
theorem stackFaultsTaken : Obligations.StackFaultsTaken :=
  ⟨fun nnn _ h => exec_call_of_full nnn (h ▸ Nat.lt_irrefl 16), fun _ h => exec_ret_of_empty h⟩

/-- Settles O20: what `SYS` executes to. -/
theorem legacyNoOpChangesNothing : Obligations.LegacyNoOpChangesNothing := exec_sys

namespace Sys2Proof.Laws.Skip

open Sys2Proof Sys2Proof.Laws.Encoding

/-- Of a word of group 5 only the low nibble 0 is legal (R56). -/
theorem decodeWord_group5 (x y n : BitVec 4) :
    decodeWord (0x5#4 ++ x ++ y ++ n) = if n = 0x0#4 then some (.seReg x y) else none := by
  simp [decodeWord, fieldGrp_xyn, fieldX_xyn, fieldY_xyn, fieldN_xyn]

/-- And so of a word of group 9. -/
theorem decodeWord_group9 (x y n : BitVec 4) :
    decodeWord (0x9#4 ++ x ++ y ++ n) = if n = 0x0#4 then some (.sneReg x y) else none := by
  simp [decodeWord, fieldGrp_xyn, fieldX_xyn, fieldY_xyn, fieldN_xyn]

end Sys2Proof.Laws.Skip

open Sys2Proof.Laws.Skip

/-- Settles O23: the low nibble selects in both groups, and both instructions are skips on their condition. -/
theorem skipsOnRegisters : Obligations.SkipsOnRegisters := fun x y s =>
  ⟨decodeWord_group5 x y 0x0#4, decodeWord_group9 x y 0x0#4,
    fun n hn => ⟨(decodeWord_group5 x y n).trans (if_neg hn), (decodeWord_group9 x y n).trans (if_neg hn)⟩,
    skip_effect (exec_seReg x y s), skip_effect (exec_sneReg x y s)⟩

namespace Sys2Proof.Laws.Alu

open Sys2Proof Sys2Proof.Machine Sys2Proof.Laws.State Sys2Proof.Laws.Ops Sys2Proof.Laws.Updates

/-! Flags and results as numbers. -/

theorem flagByte_toNat (b : Bool) : (flagByte b).toNat = b.toNat := by cases b <;> rfl

theorem carryFlag_eq (a b : Byte) : carryFlag a b = if 255 < a.toNat + b.toNat then 1 else 0 := by
  simp [carryFlag, flagByte_eq]

theorem greaterFlag_eq (a b : Byte) : greaterFlag a b = if b.toNat < a.toNat then 1 else 0 := by
  simp [greaterFlag, flagByte_eq]

theorem greaterFlag_toNat (a b : Byte) : (greaterFlag a b).toNat = if b.toNat < a.toNat then 1 else 0 := by
  rw [greaterFlag_eq]; split <;> rfl

theorem lowBitFlag_toNat (a : Byte) : (lowBitFlag a).toNat = a.toNat % 2 := by
  rw [lowBitFlag, flagByte_toNat, BitVec.getLsbD, Nat.toNat_testBit, Nat.pow_zero, Nat.div_one]

theorem highBitFlag_toNat (a : Byte) : (highBitFlag a).toNat = a.toNat / 128 := by
  have := a.isLt
  rw [highBitFlag, flagByte_toNat, BitVec.getLsbD, Nat.toNat_testBit]; omega

theorem sub_toNat (a b : Byte) : (a - b).toNat = (a.toNat + 256 - b.toNat) % 256 := by
  have := b.isLt
  rw [BitVec.toNat_sub]; omega

theorem shiftRight_one_toNat (a : Byte) : (a >>> 1).toNat = a.toNat / 2 := by
  rw [BitVec.toNat_ushiftRight, Nat.shiftRight_eq_div_pow, Nat.pow_one]

theorem shiftLeft_one_toNat (a : Byte) : (a <<< 1).toNat = a.toNat * 2 % 256 := by
  rw [BitVec.toNat_shiftLeft, Nat.shiftLeft_eq, Nat.pow_one]

/-! The registers after a flag write, and the effect of a flag write followed by a result. -/

@[simp] theorem getReg_setFlag_flagReg (s : State) (f : Byte) : (s.setFlag f).getReg flagReg = f :=
  getReg_setReg_same s flagReg f

theorem getReg_setFlag_other (s : State) (f : Byte) {q : RegNum} (h : q ≠ flagReg) : (s.setFlag f).getReg q = s.getReg q :=
  getReg_setReg_other s f h

/-- The effect of an instruction that writes a flag, then a register, and advances: the register may be `VF`. -/
theorem flagWrite_effect {i : Instr} {s : State} {f b : Byte} {x : RegNum}
    (h : exec i s = .next ((s.setFlag f).setReg x b).advance) :
    ∃ t, exec i s = .next t ∧ t.getReg x = b ∧ (x ≠ flagReg → t.vf = f) ∧ t.pc = s.pc + 2 ∧
      Machine.Frame (fun p => p = .pc ∨ p = .reg x ∨ p = .reg flagReg) s t := by
  refine ⟨_, h, getReg_setReg_same _ x b, fun hx => ?_, rfl, flagWrite_frame s f x b⟩
  exact (getReg_setReg_other _ b (Ne.symm hx)).trans (getReg_setFlag_flagReg s f)

/-- Where the result goes to `VF` too, the result is what stays there (R87). -/
theorem flagWrite_effect_flagReg {i : Instr} {s : State} {f b : Byte}
    (h : exec i s = .next ((s.setFlag f).setReg flagReg b).advance) :
    ∃ t, exec i s = .next t ∧ t.vf = b ∧ t.pc = s.pc + 2 ∧ Machine.Frame (fun p => p = .pc ∨ p = .reg flagReg) s t := by
  obtain ⟨t, ht, hx, -, hpc, hframe⟩ := flagWrite_effect h
  exact ⟨t, ht, hx, hpc, Frame.mono hframe fun _ => Or.imp_right (or_self_iff.1 ·)⟩

/-- The effect of an instruction that takes a free draw, writes one register and advances. -/
theorem drawnWrite_effect {i : Instr} {s : State} {x : RegNum} {b : Byte}
    (h : exec i s = .next (s.nextDraw.setReg x b).advance) :
    ∃ t, exec i s = .next t ∧ t.getReg x = b ∧ t.draws = s.draws + 1 ∧ t.pc = s.pc + 2 ∧
      Machine.Frame (fun p => p = .pc ∨ p = .reg x ∨ p = .draws) s t :=
  ⟨_, h, getReg_setReg_same _ x b, rfl, rfl, drawnWrite_frame s x b⟩

end Sys2Proof.Laws.Alu

open Sys2Proof.Laws.Alu

/-- Settles O27: the sum is formed from the old registers and written last. -/
theorem addWithCarry : Obligations.AddWithCarry := by
  intro x y s
  obtain ⟨t, ht, hx, hvf, hpc, hframe⟩ := flagWrite_effect (exec_addReg x y s)
  exact ⟨t, ht, hx ▸ BitVec.toNat_add .., fun h => (hvf h).trans (carryFlag_eq ..), hpc, hframe⟩

/-- Settles O28: the flag write does not touch the operands. -/
theorem subtractionsWithoutVf : Obligations.SubtractionsWithoutVf := by
  intro x y s hx hy
  obtain ⟨t, ht, htx, htf, hpc, hframe⟩ := flagWrite_effect (exec_sub x y s rfl)
  obtain ⟨u, hu, hux, huf, hpc', hframe'⟩ := flagWrite_effect (exec_subn x y s rfl)
  rw [getReg_setFlag_other _ _ hx, getReg_setFlag_other _ _ hy] at htx hux
  exact ⟨⟨t, ht, htx ▸ sub_toNat .., (htf hx).trans (greaterFlag_eq ..), hpc, hframe⟩,
    ⟨u, hu, hux ▸ sub_toNat .., (huf hx).trans (greaterFlag_eq ..), hpc', hframe'⟩⟩

/-- Settles O29: the operand `VF` is the flag just written, the other one is as it was. -/
theorem subtractionsNamingVf : Obligations.SubtractionsNamingVf := by
  intro y s hy
  have hother (f : Byte) : (s.setFlag f).getReg y = s.getReg y := getReg_setFlag_other s f hy
  refine ⟨?_, ?_, ?_, ?_, ?_, ?_⟩
  · obtain ⟨t, ht, hvf, hpc, hframe⟩ := flagWrite_effect_flagReg (exec_sub flagReg y s rfl)
    rw [getReg_setFlag_flagReg, hother] at hvf
    exact ⟨t, ht, by rw [hvf, sub_toNat, greaterFlag_toNat]; rfl, hpc, hframe⟩
  · obtain ⟨t, ht, hx, hvf, hpc, hframe⟩ := flagWrite_effect (exec_sub y flagReg s rfl)
    rw [getReg_setFlag_flagReg, hother, ← hvf hy] at hx
    exact ⟨t, ht, (hvf hy).trans (greaterFlag_eq ..), by rw [hx, sub_toNat], hpc, hframe⟩
  · obtain ⟨t, ht, hvf, hpc, hframe⟩ := flagWrite_effect_flagReg (exec_subn flagReg y s rfl)
    rw [getReg_setFlag_flagReg, hother] at hvf
    exact ⟨t, ht, by rw [hvf, sub_toNat, greaterFlag_toNat]; rfl, hpc, hframe⟩
  · obtain ⟨t, ht, hx, hvf, hpc, hframe⟩ := flagWrite_effect (exec_subn y flagReg s rfl)
    rw [getReg_setFlag_flagReg, hother, ← hvf hy] at hx
    exact ⟨t, ht, (hvf hy).trans (greaterFlag_eq ..), by rw [hx, sub_toNat], hpc, hframe⟩
  · obtain ⟨t, ht, hvf, hpc, hframe⟩ := flagWrite_effect_flagReg (exec_sub flagReg flagReg s rfl)
    exact ⟨t, ht, hvf.trans (BitVec.sub_self _), hpc, hframe⟩
  · obtain ⟨t, ht, hvf, hpc, hframe⟩ := flagWrite_effect_flagReg (exec_subn flagReg flagReg s rfl)
    exact ⟨t, ht, hvf.trans (BitVec.sub_self _), hpc, hframe⟩

/-- Settles O30: without `VF` the operand is as it was, with `VF` it is the bit shifted out. -/
theorem shiftsByOne : Obligations.ShiftsByOne := by
  intro x y s
  obtain ⟨t, ht, htx, htf, hpc, hframe⟩ := flagWrite_effect (exec_shr x y s rfl)
  obtain ⟨u, hu, hux, huf, hpc', hframe'⟩ := flagWrite_effect (exec_shl x y s rfl)
  refine ⟨⟨t, ht, fun hx => ?_, fun hx => ?_, hpc, hframe⟩, ⟨u, hu, fun hx => ?_, fun hx => ?_, hpc', hframe'⟩⟩
  · rw [getReg_setFlag_other _ _ hx] at htx
    exact ⟨by rw [htx, shiftRight_one_toNat], by rw [htf hx, lowBitFlag_toNat]⟩
  · subst hx
    rw [getReg_setFlag_flagReg] at htx
    refine BitVec.eq_of_toNat_eq ?_
    rw [State.vf, htx, shiftRight_one_toNat, lowBitFlag_toNat]
    exact Nat.div_eq_of_lt (Nat.mod_lt _ Nat.two_pos)
  · rw [getReg_setFlag_other _ _ hx] at hux
    exact ⟨by rw [hux, shiftLeft_one_toNat], by rw [huf hx, highBitFlag_toNat]⟩
  · subst hx
    rw [getReg_setFlag_flagReg] at hux
    have := s.vf.isLt
    rw [State.vf, hux, shiftLeft_one_toNat, highBitFlag_toNat, ← State.vf]
    omega

/-- Settles O31: a register write of the masked draw; the mask removes every bit outside it. -/
theorem randomByteIsMasked : Obligations.RandomByteIsMasked := by
  intro x kk s
  obtain ⟨t, ht, hx, hdraws, hpc, hframe⟩ := drawnWrite_effect (exec_rnd x kk s)
  refine ⟨t, ht, hx, ?_, hdraws, hpc, hframe⟩
  rw [hx, BitVec.and_assoc, BitVec.and_not_self]
  exact BitVec.and_zero

open Sys2Proof.Laws.IndexMemory

/-- Settles O33: a write of `I` with the 16-bit sum of the old `I` and the byte extended. -/
theorem addToIndexWrapsAt16Bits : Obligations.AddToIndexWrapsAt16Bits := by
  intro x s
  obtain ⟨t, ht, hi, hpc, hframe⟩ := indexWrite_effect (exec_addI x s)
  have hext : ((s.getReg x).zeroExtend 16).toNat = (s.getReg x).toNat := BitVec.toNat_setWidth_of_le (by decide)
  exact ⟨t, ht, by rw [hi, BitVec.toNat_add, hext], hpc, hframe⟩

/-- Settles O34: a write of `I` with the address of the glyph, which fits in 16 bits. -/
theorem glyphAddressIsExact : Obligations.GlyphAddressIsExact := by
  intro x s
  obtain ⟨t, ht, hi, hpc, hframe⟩ := indexWrite_effect (exec_ldF x s)
  exact ⟨t, ht, hi ▸ glyphAddr_toNat _, hpc, hframe⟩

namespace Sys2Proof.Laws.IndexMemory

open Sys2Proof Sys2Proof.Machine Sys2Proof.Laws.State Sys2Proof.Laws.Ops Sys2Proof.Laws.Exec Sys2Proof.Laws.Updates Sys2Proof.Laws.Total

/-! The bounds check of the accesses, by the numbers the statements use (R39). -/

theorem memBounds_block {s : State} {x : RegNum} (h : s.i.toNat + x.toNat ≤ 4095) : s.memBounds (regCount x) = none :=
  (memBounds_eq_none s _).2 (.inr h)

theorem memBounds_of_above {s : State} {n : Nat} (hn : 0 < n) (h : 4095 < s.i.toNat + (n - 1)) :
    s.memBounds n = some (BitVec.ofNat 16 (max s.i.toNat 4096)) :=
  (memBounds_eq_some s n _).2 ⟨⟨hn, h⟩, rfl⟩

/-- The three bytes after a BCD store are the digits (R94). -/
theorem readByte_digits (s : State) (b : Byte) {k : Nat} (hk : k < (digits b).length) :
    (s.writeBytes (s.dataAddr 0) (digits b)).readByte (s.dataAddr k) = (digits b)[k] := by
  rw [readByte_writeBytes, dataAddr_eq_add s k, if_pos (Nat.le_add_right _ k), Nat.add_sub_cancel_left,
    List.getElem?_eq_getElem hk, Option.getD_some]

/-- A byte in the block of a store holds the register stored there (R95). -/
theorem readByte_block (s : State) {x r : RegNum} (h : r.toNat ≤ x.toNat) :
    (s.storeFirst (s.dataAddr 0) (regCount x)).readByte (s.dataAddr r.toNat) = s.getReg r := by
  have hin : s.dataAddr 0 ≤ s.dataAddr 0 + r.toNat ∧ s.dataAddr 0 + r.toNat < s.dataAddr 0 + regCount x :=
    ⟨Nat.le_add_right _ _, Nat.add_lt_add_left (lt_regCount.2 h) _⟩
  rw [dataAddr_eq_add s r.toNat, readByte_storeFirst, if_pos hin, Nat.add_sub_cancel_left, BitVec.ofNat_toNat, BitVec.setWidth_eq]

/-- A register of the block of a load holds the byte loaded into it (R96). -/
theorem getReg_block (s : State) {x r : RegNum} (h : r.toNat ≤ x.toNat) :
    (s.loadFirst (s.dataAddr 0) (regCount x)).getReg r = s.readByte (s.dataAddr r.toNat) := by
  rw [getReg_loadFirst s _ _ (regCount_le x), if_pos (lt_regCount.2 h), ← dataAddr_eq_add]

end Sys2Proof.Laws.IndexMemory

open Sys2Proof Sys2Proof.Machine Sys2Proof.Laws.State Sys2Proof.Laws.Ops Sys2Proof.Laws.Exec Sys2Proof.Laws.Updates
  Sys2Proof.Laws.Total Sys2Proof.Laws.IndexMemory

/-- Settles O35: the three digits are bytes written at ascending addresses. -/
theorem bcdStoresThreeDigits : Obligations.BcdStoresThreeDigits := by
  intro x s h
  have hbounds : s.memBounds 3 = none := (memBounds_eq_none s 3).2 (.inr (by omega))
  have hdigit (k : Nat) (hk : k < 3) := readByte_digits s (s.getReg x) hk
  exact ⟨_, exec_ldB_of_inBounds x hbounds, hdigit 0 (by decide) ▸ hundreds_toNat _, hdigit 1 (by decide) ▸ tens_toNat _,
    hdigit 2 (by decide) ▸ ones_toNat _, rfl, frame_advance (Sys2Proof.Laws.Frame.writeBytes s _ (digits (s.getReg x)))⟩

/-- Settles O36: the block in bounds holds the registers, and nothing outside it is written. -/
theorem blockStoreWritesRegisters : Obligations.BlockStoreWritesRegisters := fun x s h =>
  ⟨_, exec_storeRegs_of_inBounds (memBounds_block h), fun _ hr => readByte_block s hr,
    congrArg (· + 2) (storeFirst_pc s _ _), storeFirst_advance_frame s (regCount x)⟩

/-- Settles O37: the registers up to `V[x]` hold the block, and the others are not written. -/
theorem blockLoadReadsRegisters : Obligations.BlockLoadReadsRegisters := fun x s h =>
  ⟨_, exec_loadRegs_of_inBounds (memBounds_block h), fun _ hr => getReg_block s hr,
    congrArg (· + 2) (loadFirst_pc s _ _), loadFirst_advance_frame s _ x⟩

/-- Settles O38: the load reads the bytes that the store wrote, at the addresses it wrote them to. -/
theorem storeThenLoadRestores : Obligations.StoreThenLoadRestores := by
  intro x s t u v h hstore hmem hi hload r hr
  rw [exec_storeRegs_of_inBounds (memBounds_block h)] at hstore
  cases hstore
  have hiu : u.i = s.i := by
    obtain ⟨m, hm⟩ := storeFirst_frame s (s.dataAddr 0) (regCount x)
    rw [hi, hm]; rfl
  rw [exec_loadRegs_of_inBounds (memBounds_block (hiu ▸ h))] at hload
  cases hload
  have haddr : u.dataAddr r.toNat = s.dataAddr r.toNat := by rw [State.dataAddr, State.dataAddr, hiu]
  exact (getReg_block u hr).trans (haddr ▸ (readByte_eq_of_mem hmem _).trans (readByte_block s hr))

/-- Settles O39: the two bytes fetched are two neighbours of the block. -/
theorem storeIsSeenByNextFetch : Obligations.StoreIsSeenByNextFetch := by
  intro x r s t u h hstore hmem hr hpc
  rw [exec_storeRegs_of_inBounds (memBounds_block h)] at hstore
  cases hstore
  have hsucc : (r + 1).toNat = r.toNat + 1 := by
    have := x.isLt
    rw [BitVec.toNat_add, show (1 : RegNum).toNat = 1 from rfl]; omega
  have hread (q : RegNum) (hq : q.toNat ≤ x.toNat) : u.readByte (s.dataAddr q.toNat) = s.getReg q :=
    (readByte_eq_of_mem hmem _).trans (readByte_block s hq)
  have hnext : s.dataAddr r.toNat + 1 = s.dataAddr (r + 1).toNat := by rw [hsucc]; rfl
  rw [State.fetchWord, Sys2Proof.Laws.Encoding.wordOfBytes_toNat, hpc, hnext, hread r (by omega), hread (r + 1) (by omega)]

/-- Settles O40: the check comes first in all four. -/
theorem memoryBoundsTakeFault : Obligations.MemoryBoundsTakeFault := fun x y _ _ =>
  ⟨fun h => exec_ldB_of_outOfBounds x (memBounds_of_above (Nat.succ_pos 2) h),
    fun h => have hb := memBounds_of_above (n := regCount x) (Nat.succ_pos _) h
      ⟨exec_storeRegs_of_outOfBounds hb, exec_loadRegs_of_outOfBounds hb⟩,
    fun hn h => exec_drw_of_outOfBounds x y (memBounds_of_above hn h)⟩

/-- Settles O41: the law of a read after a write, at the address and off it, and the law of the canonical form. -/
theorem memoryReadAfterWrite : Obligations.MemoryReadAfterWrite := fun m a b =>
  ⟨(Sys2Proof.Laws.Memory.read_after_write m a a b).trans (if_pos rfl),
    fun c hc => (Sys2Proof.Laws.Memory.read_after_write m a c b).trans (if_neg hc),
    fun ha hm => Sys2Proof.Laws.Memory.wf_write hm ha⟩

namespace Sys2Proof.Laws.Draw

open Sys2Proof Sys2Proof.Machine Sys2Proof.Laws.State Sys2Proof.Laws.Ops Sys2Proof.Laws.Exec Sys2Proof.Laws.Updates Sys2Proof.Laws.Sprite

/-! The writes of a draw over cells that are on the display and named once each. -/

theorem cell_draw {s : State} {ks : List Nat} (hk : ks.Nodup) (hlt : ∀ k ∈ ks, k < 2048) (j : Nat) :
    (s.draw ks).cell j = (s.cell j ^^ decide (j ∈ ks)) :=
  (flipCells_spec s.disp ks false hk hlt).1 j

theorem vf_draw {s : State} {ks : List Nat} (hk : ks.Nodup) (hlt : ∀ k ∈ ks, k < 2048) :
    (s.draw ks).vf = flagByte (ks.any s.cell) := by
  have hhit := (flipCells_spec s.disp ks false hk hlt).2
  rw [Bool.false_or] at hhit
  exact (getReg_setReg_same _ flagReg _).trans (congrArg flagByte hhit)

/-- Flipping the same cells twice gives the display back. -/
theorem disp_draw_draw {s : State} {ks : List Nat} (hk : ks.Nodup) (hlt : ∀ k ∈ ks, k < 2048) :
    ((s.draw ks).draw ks).disp = s.disp := by
  refine BitVec.eq_of_getLsbD_eq fun j _ => ?_
  change ((s.draw ks).draw ks).cell j = s.cell j
  rw [cell_draw hk hlt, cell_draw hk hlt, Bool.xor_assoc, Bool.xor_self, Bool.xor_false]

theorem readBytes_eq_of_mem {s t : State} (h : t.mem = s.mem) (a n : Nat) : t.readBytes a n = s.readBytes a n := by
  induction n generalizing a with
  | zero => rfl
  | succ n ih => rw [State.readBytes, State.readBytes, ih, readByte_eq_of_mem h]

/-- The targets of a draw depend on memory, `I` and the two coordinates only (R100). -/
theorem drawTargets_eq {s t : State} {x y : RegNum} (n : BitVec 4) (hmem : t.mem = s.mem) (hi : t.i = s.i)
    (hx : t.getReg x = s.getReg x) (hy : t.getReg y = s.getReg y) : t.drawTargets x y n = s.drawTargets x y n := by
  rw [State.drawTargets, State.drawTargets, State.dataAddr, State.dataAddr, hx, hy, hi, readBytes_eq_of_mem hmem]

/-- A draw with `VF` no coordinate leaves its own targets as they were (R101). -/
theorem drawTargets_draw (s : State) (ks : List Nat) {x y : RegNum} (n : BitVec 4) (hx : x ≠ flagReg) (hy : y ≠ flagReg) :
    (s.draw ks).drawTargets x y n = s.drawTargets x y n := by
  have hreg {q : RegNum} (hq : q ≠ flagReg) : (s.draw ks).getReg q = s.getReg q := getReg_setReg_other _ _ hq
  exact drawTargets_eq n rfl rfl (hreg hx) (hreg hy)

/-- A `Dxyn` that does not halt the core passed both checks and drew. -/
theorem exec_drw_of_running {x y : RegNum} {n : BitVec 4} {s t : State} (h : exec (.drw x y n) s = .next t)
    (ht : t.halted = false) :
    s.memBounds n.toNat = none ∧ displayBounds (s.drawTargets x y n) = none ∧ t = s.draw (s.drawTargets x y n) := by
  rcases hm : s.memBounds n.toNat with _ | info
  · rcases hd : displayBounds (s.drawTargets x y n) with _ | info
    · rw [exec_drw_of_inBounds hm hd] at h; cases h
      exact ⟨rfl, rfl, rfl⟩
    · rw [exec_drw_of_offDisplay hm hd] at h; cases h; cases ht
  · rw [exec_drw_of_outOfBounds x y hm] at h; cases h; cases ht

/-! The first cell off the display, rows before bits (R100, R116). -/

/-- The first cell off the display in one row. -/
theorem find?_rowCells {col row bit : Nat} {b : Byte} (hbit : bit < 8) (hset : b.getLsbD (7 - bit) = true)
    (hoff : 2047 < cellIndex (col + bit) row)
    (hfirst : ∀ bit' < bit, b.getLsbD (7 - bit') = true → cellIndex (col + bit') row ≤ 2047) :
    (rowCells col row b).find? (fun k => decide (2047 < k)) = some (cellIndex (col + bit) row) := by
  have hfind : (List.range 8).find? (fun bit => (if b.getLsbD (7 - bit) then some (cellIndex (col + bit) row) else none).any
      (fun k => decide (2047 < k))) = some bit := by
    rw [List.find?_range_eq_some]
    refine ⟨by simp [hset, hoff], List.mem_range.2 hbit, fun bit' hlt => ?_⟩
    by_cases hs : b.getLsbD (7 - bit') = true
    · simpa [hs] using hfirst bit' hlt hs
    · simp [hs]
  rw [rowCells, List.find?_filterMap, show [0, 1, 2, 3, 4, 5, 6, 7] = List.range 8 from rfl, hfind]
  simp [hset]

/-- A row with every cell on the display has none off it. -/
theorem find?_rowCells_eq_none {col row : Nat} {b : Byte}
    (h : ∀ bit < 8, b.getLsbD (7 - bit) = true → cellIndex (col + bit) row ≤ 2047) :
    (rowCells col row b).find? (fun k => decide (2047 < k)) = none := by
  rw [List.find?_eq_none]
  intro k hk
  obtain ⟨bit, hbit, hset, rfl⟩ := (mem_rowCells ..).1 hk
  simpa [cellIndex] using h bit hbit hset

/-- The first cell off the display in a sprite: in row `j`, with every earlier row on the display. -/
theorem find?_spriteCells {col row j bit : Nat} {bs : List Byte} {b : Byte} (hj : bs[j]? = some b) (hbit : bit < 8)
    (hset : b.getLsbD (7 - bit) = true) (hoff : 2047 < cellIndex (col + bit) (row + j))
    (hfirst : ∀ j' bit' c, bit' < 8 → (j' < j ∨ j' = j ∧ bit' < bit) → bs[j']? = some c → c.getLsbD (7 - bit') = true →
      cellIndex (col + bit') (row + j') ≤ 2047) :
    (spriteCells col row bs).find? (fun k => decide (2047 < k)) = some (cellIndex (col + bit) (row + j)) := by
  induction bs generalizing row j with
  | nil => cases hj
  | cons c bs ih =>
    rw [spriteCells, List.find?_append]
    cases j with
    | zero =>
      cases hj
      have hrow := find?_rowCells (row := row) hbit hset hoff
        fun bit' hlt => hfirst 0 bit' b (hlt.trans hbit) (.inr ⟨rfl, hlt⟩) rfl
      rw [hrow]; rfl
    | succ j =>
      have hrow := find?_rowCells_eq_none (row := row) fun bit' hlt => hfirst 0 bit' c hlt (.inl (Nat.succ_pos j)) rfl
      rw [hrow, Option.none_or]
      rw [Nat.add_comm j, ← Nat.add_assoc] at hoff ⊢
      refine ih hj hoff fun j' bit' d hlt hbefore hd hset' => ?_
      have := hfirst (j' + 1) bit' d hlt (by omega) hd hset'
      rwa [Nat.add_comm j', ← Nat.add_assoc] at this

end Sys2Proof.Laws.Draw

open Sys2Proof Sys2Proof.Machine Sys2Proof.Laws.Ops Sys2Proof.Laws.Exec Sys2Proof.Laws.Updates Sys2Proof.Laws.Sprite Sys2Proof.Laws.Draw

/-- Settles O43: the list the draw walks names each target once and nothing else, so each is flipped once. -/
theorem drawTogglesTargets : Obligations.DrawTogglesTargets := by
  intro x y n s hmem htargets
  have hiff := mem_drawTargets s x y n
  have hnodup := nodup_drawTargets s x y n
  have hlt : ∀ k ∈ s.drawTargets x y n, k < 2048 := fun k hk => Nat.lt_succ_of_le (htargets k ((hiff k).1 hk))
  have hexec := exec_drw_of_inBounds ((memBounds_eq_none s _).2 hmem) ((displayBounds_eq_none _).2 hlt)
  have hvf := vf_draw (s := s) hnodup hlt
  refine ⟨_, hexec, fun k _ => ⟨fun hk => ?_, fun hk => ?_⟩, ?_, ?_, rfl, rfl, ?_⟩
  · rw [cell_draw hnodup hlt, decide_eq_true ((hiff k).2 hk), Bool.xor_true]
  · rw [cell_draw hnodup hlt, decide_eq_false (mt (hiff k).1 hk), Bool.xor_false]
  · rw [hvf]
    cases (s.drawTargets x y n).any s.cell
    · exact .inr rfl
    · exact .inl rfl
  · have hone (b : Bool) : flagByte b = 1 ↔ b = true := by cases b <;> decide
    simp only [hvf, hone, List.any_eq_true, hiff]
  · exact Sys2Proof.Laws.Frame.mono (draw_frame hnodup hlt) fun _ =>
      Or.imp_right (Or.imp_right (Or.imp_right fun ⟨k, hp, hk⟩ => ⟨k, hp, (hiff k).1 hk⟩))

/-- Settles O44: the second draw has the operands, and so the checks and the targets, of the first. -/
theorem drawTwiceRestoresDisplay : Obligations.DrawTwiceRestoresDisplay := by
  intro x y n s t u hs hx hy hfirst ht hsecond
  obtain ⟨hm, hd, rfl⟩ := exec_drw_of_running hfirst ht
  have hlt := (displayBounds_eq_none _).1 hd
  rw [← drawTargets_draw s (s.drawTargets x y n) n hx hy] at hd
  rw [exec_drw_of_inBounds (s := s.draw _) hm hd, drawTargets_draw s _ n hx hy] at hsecond
  cases hsecond
  exact ⟨disp_draw_draw (nodup_drawTargets s x y n) hlt, hs⟩

/-- Settles O45: the first cell of the list that is off the display is the first offending bit, rows before bits. -/
theorem displayBoundsTakeFault : Obligations.DisplayBoundsTakeFault := by
  intro x y n s row bit hmem hrow hbit hset hoff hfirst
  have hbytes (j : Nat) (hj : j < n.toNat) : (s.readBytes (s.dataAddr 0) n.toNat)[j]? = some (s.readByte (s.i.toNat + j)) := by
    rw [readBytes_getElem?, if_pos hj]; rfl
  have hfind := find?_spriteCells (hbytes row hrow) hbit hset hoff fun j' bit' c hbit' hbefore hc hset' => by
    rw [hbytes j' (by omega)] at hc
    cases hc
    exact hfirst j' bit' hbit' hbefore hset'
  have hinfo : displayBounds (s.drawTargets x y n) = some (BitVec.ofNat 16 (s.spriteIndex x y row bit)) :=
    congrArg (Option.map (BitVec.ofNat 16)) hfind
  exact exec_drw_of_offDisplay ((memBounds_eq_none s _).2 (.inr hmem)) hinfo

namespace Sys2Proof.Laws.KeysTimers

open Sys2Proof Sys2Proof.Machine Sys2Proof.Laws.State Sys2Proof.Laws.Ops Sys2Proof.Laws.Exec Sys2Proof.Laws.Updates

/-- A timer is still nonzero after a tick exactly when it held more than 1 (R124). -/
theorem countDown_ne_zero (a : Byte) : countDown a ≠ 0 ↔ 1 < a.toNat := by
  have hzero : countDown a = 0 ↔ (countDown a).toNat = 0 := ⟨fun h => h ▸ rfl, fun h => BitVec.eq_of_toNat_eq h⟩
  rw [Ne, hzero, countDown_toNat]; omega

theorem tick_soundActive_iff (s : State) : s.tick.soundActive = true ↔ 1 < s.st.toNat := by
  rw [tick_soundActive, decide_eq_true_iff, countDown_ne_zero]

/-- The Tick step of a running core. -/
theorem step_tick {s : State} (hm : s.nextMove = .tick) (hh : s.halted = false) :
    step s = .next (s.setAgenda s.agenda.tail).tick := by
  rw [Step.step_of_nextMove hm, perform, moveTick, if_neg (by simp [hh])]

theorem tick_frame (s : State) : Machine.Frame (fun p => p = .dt ∨ p = .st ∨ p = .soundActive) s s.tick :=
  frame_seq (Frame.setDt s _) (frame_seq (Frame.setSt _ _) (Frame.setSoundActive _ _) (fun _ => Or.inl) (fun _ => Or.inr))
    (fun _ => Or.inl) (fun _ => Or.inr)

/-! No instruction reads `ST` (R109). -/

/-- The instruction does the same with another value in `ST`, and carries that value along. -/
def IgnoresSt (i : Instr) (s : State) (a : Byte) : Prop :=
  ∃ t, exec i s = .next t ∧ exec i (s.setSt a) = .next (t.setSt a)

theorem storeFirst_setSt (s : State) (a : Byte) (base n : Nat) :
    (s.setSt a).storeFirst base n = (s.storeFirst base n).setSt a := by
  induction n with
  | zero => rfl
  | succ n ih => rw [State.storeFirst, ih]; rfl

theorem loadFirst_setSt (s : State) (a : Byte) (base n : Nat) :
    (s.setSt a).loadFirst base n = (s.loadFirst base n).setSt a := by
  induction n with
  | zero => rfl
  | succ n ih => rw [State.loadFirst, ih]; rfl

/-- Every instruction but the one that writes `ST` ignores it: its checks and its results are of other parts. -/
theorem ignoresSt {i : Instr} (hi : ∀ x, i ≠ .ldStVx x) (s : State) (a : Byte) : IgnoresSt i s a := by
  cases i with
  | ldStVx x => exact absurd rfl (hi x)
  | ret =>
    by_cases h : s.sp.val = 0
    · exact ⟨_, exec_ret_of_empty h, exec_ret_of_empty (s := s.setSt a) h⟩
    · exact ⟨_, exec_ret_of_pos h, exec_ret_of_pos (s := s.setSt a) h⟩
  | call nnn =>
    by_cases h : s.sp.val < 16
    · exact ⟨_, exec_call_of_room nnn h, exec_call_of_room (s := s.setSt a) nnn h⟩
    · exact ⟨_, exec_call_of_full nnn h, exec_call_of_full (s := s.setSt a) nnn h⟩
  | skp x =>
    by_cases h : 15 < (s.getReg x).toNat
    · exact ⟨_, exec_skp_of_range h, exec_skp_of_range (s := s.setSt a) h⟩
    · exact ⟨_, exec_skp_of_key h, exec_skp_of_key (s := s.setSt a) h⟩
  | sknp x =>
    by_cases h : 15 < (s.getReg x).toNat
    · exact ⟨_, exec_sknp_of_range h, exec_sknp_of_range (s := s.setSt a) h⟩
    · exact ⟨_, exec_sknp_of_key h, exec_sknp_of_key (s := s.setSt a) h⟩
  | ldVxK x =>
    rcases h : s.chosenKey with _ | k
    · exact ⟨_, exec_ldVxK_of_none x h, exec_ldVxK_of_none (s := s.setSt a) x h⟩
    · exact ⟨_, exec_ldVxK_of_some x h, exec_ldVxK_of_some (s := s.setSt a) x h⟩
  | ldB x =>
    rcases h : s.memBounds 3 with _ | info
    · exact ⟨_, exec_ldB_of_inBounds x h, exec_ldB_of_inBounds (s := s.setSt a) x h⟩
    · exact ⟨_, exec_ldB_of_outOfBounds x h, exec_ldB_of_outOfBounds (s := s.setSt a) x h⟩
  | storeRegs x =>
    rcases h : s.memBounds (regCount x) with _ | info
    · refine ⟨_, exec_storeRegs_of_inBounds h, (exec_storeRegs_of_inBounds (s := s.setSt a) h).trans ?_⟩
      rw [storeFirst_setSt]; rfl
    · exact ⟨_, exec_storeRegs_of_outOfBounds h, exec_storeRegs_of_outOfBounds (s := s.setSt a) h⟩
  | loadRegs x =>
    rcases h : s.memBounds (regCount x) with _ | info
    · refine ⟨_, exec_loadRegs_of_inBounds h, (exec_loadRegs_of_inBounds (s := s.setSt a) h).trans ?_⟩
      rw [loadFirst_setSt]; rfl
    · exact ⟨_, exec_loadRegs_of_outOfBounds h, exec_loadRegs_of_outOfBounds (s := s.setSt a) h⟩
  | drw x y n =>
    have htargets : (s.setSt a).drawTargets x y n = s.drawTargets x y n := Draw.drawTargets_eq n rfl rfl rfl rfl
    rcases h : s.memBounds n.toNat with _ | info
    · rcases hd : displayBounds (s.drawTargets x y n) with _ | info
      · refine ⟨_, exec_drw_of_inBounds h hd, (exec_drw_of_inBounds (s := s.setSt a) h (htargets ▸ hd)).trans ?_⟩
        rw [htargets]; rfl
      · exact ⟨_, exec_drw_of_offDisplay h hd, exec_drw_of_offDisplay (s := s.setSt a) h (htargets ▸ hd)⟩
    · exact ⟨_, exec_drw_of_outOfBounds x y h, exec_drw_of_outOfBounds (s := s.setSt a) x y h⟩
  | _ => exact ⟨_, rfl, rfl⟩

end Sys2Proof.Laws.KeysTimers

open Sys2Proof Sys2Proof.Machine Sys2Proof.Laws.State Sys2Proof.Laws.Ops Sys2Proof.Laws.Exec Sys2Proof.Laws.Updates
  Sys2Proof.Laws.Alu Sys2Proof.Laws.KeysTimers Sys2Proof.Laws.Step

/-- Settles O46: with a key code both are skips on the level of the key. -/
theorem keySkipsTestTheLevel : Obligations.KeySkipsTestTheLevel := by
  intro x s h
  refine ⟨⟨_, exec_skp_of_key (Nat.not_lt.2 h), rfl, Sys2Proof.Laws.Frame.skipIf s _⟩,
    ⟨_, exec_sknp_of_key (Nat.not_lt.2 h), ?_, Sys2Proof.Laws.Frame.skipIf s _⟩⟩
  rw [skipIf_pc]
  cases s.keyDown (s.getReg x).toNat <;> rfl

/-- Settles O47: the fault branches of the two skips. -/
theorem keyRangeTakesFault : Obligations.KeyRangeTakesFault := fun _ _ h => ⟨exec_skp_of_range h, exec_sknp_of_range h⟩

/-- Settles O48: the key chosen is a pressed one, and none is chosen exactly when none is pressed. -/
theorem keyWaitTakesAPressedKey : Obligations.KeyWaitTakesAPressedKey := by
  intro x s
  obtain ⟨hnone, hempty⟩ | ⟨k, hk, hmem⟩ := chosenKey_spec s
  · refine ⟨fun ⟨k, hlt, hdown⟩ => ?_, fun _ => exec_ldVxK_of_none x hnone⟩
    have hval : (BitVec.ofNat 8 k).toNat = k := by rw [BitVec.toNat_ofNat]; omega
    have : BitVec.ofNat 8 k ∈ s.pressedKeys := (mem_pressedKeys s _).2 (hval.symm ▸ ⟨hlt, hdown⟩)
    rw [hempty] at this
    cases this
  · obtain ⟨hlt, hdown⟩ := (mem_pressedKeys s k).1 hmem
    refine ⟨fun _ => ?_, fun hup => absurd hdown (by simp [hup _ hlt])⟩
    obtain ⟨t, ht, hx, -, hpc, hframe⟩ := drawnWrite_effect (exec_ldVxK_of_some x hk)
    exact ⟨t, ht, hx.symm ▸ hlt, hx.symm ▸ hdown, hpc, hframe⟩

/-- Settles O51: the write of `ST` is heard at the next tick only; every other instruction ignores `ST`, and this one overwrites it. -/
theorem setSoundTimer : Obligations.SetSoundTimer := by
  refine ⟨fun x s => ⟨decodeWord_groupF x 0x18#8, _, exec_ldStVx x s, rfl, rfl, rfl, setSt_advance_frame s _, fun hh hm => ?_⟩,
    fun i s t a h => ?_⟩
  · exact ⟨_, step_tick hm hh, tick_soundActive_iff _⟩
  · by_cases hi : ∃ x, i = .ldStVx x
    · obtain ⟨x, rfl⟩ := hi
      cases h
      exact ⟨_, exec_ldStVx x _, rfl⟩
    · obtain ⟨u, hu, hua⟩ := ignoresSt (fun x hx => hi ⟨x, hx⟩) s a
      rw [h] at hu
      cases hu
      exact ⟨_, hua, rfl⟩

/-- Settles O52: the Tick step is the two counts and the report, of the state with the move taken off. -/
theorem tickCountsDown : Obligations.TickCountsDown := fun s hm hh =>
  ⟨_, step_tick hm hh, countDown_toNat s.dt, countDown_toNat s.st, decide_eq_true_iff, rfl,
    frame_seq (Sys2Proof.Laws.Frame.setAgenda s _) (tick_frame _) (fun _ h => .inr (.inr (.inr h)))
      fun _ => Or.imp_right (Or.imp_right Or.inl)⟩

/-- Settles O53, by induction on the number of ticks; sound is reported by the last of them. -/
theorem ticksReachZeroAndStay : Obligations.TicksReachZeroAndStay := by
  intro n
  induction n with
  | zero => exact fun s rest _ hagenda => ⟨s, rfl, rfl, rfl, hagenda, rfl, fun h => absurd h (Nat.lt_irrefl 0)⟩
  | succ n ih =>
    intro s rest hh hagenda
    rw [List.replicate_succ, List.cons_append] at hagenda
    have hm : s.nextMove = .tick := by rw [State.nextMove, hagenda]; rfl
    have hstep := step_tick hm hh
    rw [hagenda, List.tail_cons] at hstep
    obtain ⟨t, hrun, hdt, hst, ht, hpc, hsound⟩ := ih (s.setAgenda (List.replicate n .tick ++ rest)).tick rest hh rfl
    rw [tick_dt, setAgenda_dt, countDown_toNat] at hdt
    rw [tick_st, setAgenda_st, countDown_toNat] at hst
    rw [tick_st, setAgenda_st, countDown_toNat] at hsound
    refine ⟨t, (run_succ hstep n).trans hrun, by omega, by omega, ht, hpc, fun _ => ?_⟩
    rcases Nat.eq_zero_or_pos n with rfl | hn
    · cases hrun
      exact tick_soundActive_iff _
    · rw [hsound hn]; omega

namespace Sys2Proof.Laws.Cycle

open Sys2Proof Sys2Proof.Machine Sys2Proof.Laws.State Sys2Proof.Laws.Ops Sys2Proof.Laws.Exec Sys2Proof.Laws.Step

/-! The Execute step. -/

/-- The word fetched is the one whose number the two bytes at `pc` give (R35). -/
theorem eq_fetchWord {s : State} {w : Word}
    (h : w.toNat = (s.readByte s.pc.toNat).toNat * 256 + (s.readByte (s.pc.toNat + 1)).toNat) : w = s.fetchWord :=
  BitVec.eq_of_toNat_eq (h.trans (Encoding.wordOfBytes_toNat _ _).symm)

theorem executeStep_of_illegal {s : State} (hh : s.halted = false) (hp : s.pc.toNat ≤ 4094)
    (hd : decodeWord s.fetchWord = none) : executeStep s = .next (s.fetched.raise .illegalOpcode s.fetchWord) := by
  simp [executeStep, hh, State.fetchable, hp, hd]

theorem executeStep_of_fetchBounds {s : State} (hh : s.halted = false) (hp : 4094 < s.pc.toNat) :
    executeStep s = .next ((s.setStarted true).raise .fetchBounds s.pc) := by
  simp [executeStep, hh, State.fetchable, Nat.not_le.2 hp]

theorem executeStep_of_halted {s : State} (hh : s.halted = true) : executeStep s = .fault .coreHalted := by
  simp [executeStep, hh]

theorem moveTick_of_halted {s : State} (hh : s.halted = true) : moveTick s = .fault .coreHalted := by
  simp [moveTick, hh]

/-! The diagnostic event of an Execute step (R130). -/

theorem executeDiag_of_halted {s t : State} (h : executeStep s = .next t) (ht : t.halted = true) :
    executeDiag s = some (.fatal t.faultCause t.faultInfo) := by
  simp [executeDiag, h, ht]

theorem executeDiag_of_sys {s t : State} {nnn : BitVec 12} (h : executeStep s = .next t) (ht : t.halted = false)
    (hd : decodeWord t.op = some (.sys nnn)) : executeDiag s = some (.legacy t.op) := by
  simp [executeDiag, h, ht, hd]

theorem stepDiag_of_execute {s : State} (h : s.nextMove = .execute) : stepDiag s = executeDiag s.takeMove := by
  simp [stepDiag, h]

/-! Moves while halted. -/

/-- Of the moves other than Reset, a halted core has no next state but from the host's, and they leave the latch and `pc`. -/
theorem perform_of_halted {m : Move} {s t : State} (hh : s.halted = true) (h : perform m s = .next t) (hm : m ≠ .reset) :
    t.halted = s.halted ∧ t.faultCause = s.faultCause ∧ t.faultInfo = s.faultInfo ∧ t.pc = s.pc := by
  obtain ⟨-, hexec⟩ | ⟨-, hrun, -⟩ | ⟨_, _, -, _, rfl⟩ | ⟨-, rfl⟩ | ⟨bytes, -, -, -, rfl⟩ | ⟨hreset, -⟩ :=
    perform_cases h
  · rw [executeStep_of_halted hh] at hexec; cases hexec
  · rw [hh] at hrun; cases hrun
  · exact ⟨rfl, rfl, rfl, rfl⟩
  · exact ⟨rfl, rfl, rfl, rfl⟩
  · obtain ⟨mem, hmem⟩ := writeBytes_frame s 0x200 bytes
    rw [hmem]; exact ⟨rfl, rfl, rfl, rfl⟩
  · exact absurd hreset hm

/-! The livelock at a `0nnn` (R66). -/

/-- The parts that the livelock holds fixed: whatever decides the next fetch, and the registers. -/
def SameCore (s t : State) : Prop := t.halted = s.halted ∧ t.pc = s.pc ∧ t.mem = s.mem ∧ t.v = s.v

theorem atSys_of_sameCore {s t : State} (h : SameCore s t) (hs : s.atSys) : t.atSys := by
  obtain ⟨hhalted, hpc, hmem, -⟩ := h
  have hword : t.fetchWord = s.fetchWord := by
    rw [State.fetchWord, State.fetchWord, hpc, readByte_eq_of_mem hmem, readByte_eq_of_mem hmem]
  rw [State.atSys, hhalted, hpc, hword]
  exact hs

/-- Every ordinary move from a `0nnn` has a next state that differs in nothing the livelock holds fixed, nor in the schedule. -/
theorem perform_atSys {m : Move} {s : State} (hs : s.atSys) (hm : m.isOrdinary = true) :
    ∃ t, perform m s = .next t ∧ SameCore s t ∧ t.agenda = s.agenda := by
  obtain ⟨hh, hp, nnn, hd⟩ := hs
  cases m with
  | execute => exact ⟨_, (executeStep_of_decode hh hp hd).trans (exec_sys nnn _), ⟨rfl, rfl, rfl, rfl⟩, rfl⟩
  | tick => exact ⟨s.tick, by simp [perform, moveTick, hh], ⟨rfl, rfl, rfl, rfl⟩, rfl⟩
  | setKey _ _ | ackRender => exact ⟨_, rfl, ⟨rfl, rfl, rfl, rfl⟩, rfl⟩
  | loadProgram _ | reset => cases hm

theorem nextMove_isOrdinary {s : State} (h : ∀ m ∈ s.agenda, m.isOrdinary = true) : s.nextMove.isOrdinary = true := by
  rw [State.nextMove]
  cases hagenda : s.agenda with
  | nil => rfl
  | cons m ms => exact h m (hagenda ▸ List.mem_cons_self)

theorem step_atSys {s : State} (hs : s.atSys) (h : ∀ m ∈ s.agenda, m.isOrdinary = true) :
    ∃ t, step s = .next t ∧ SameCore s t ∧ t.agenda = s.agenda.tail :=
  perform_atSys (s := s.takeMove) hs (nextMove_isOrdinary h)

end Sys2Proof.Laws.Cycle

open Sys2Proof Sys2Proof.Machine Sys2Proof.Laws.State Sys2Proof.Laws.Ops Sys2Proof.Laws.Exec Sys2Proof.Laws.Updates
  Sys2Proof.Laws.Step Sys2Proof.Laws.Cycle

/-- Settles O6: the bytes at `pc` give the word fetched, which decodes. -/
theorem stepRunsDecodedInstruction : Obligations.StepRunsDecodedInstruction := by
  intro s i w hm hh hp hw hd
  obtain rfl := eq_fetchWord hw
  exact (step_of_nextMove hm).trans (executeStep_of_decode (s := s.takeMove) hh hp hd)

/-- Settles O7: the bytes at `pc` give the word fetched, which decodes to nothing. -/
theorem illegalWordTakesFault : Obligations.IllegalWordTakesFault := by
  intro s w hm hh hp hw hd
  obtain rfl := eq_fetchWord hw
  exact (step_of_nextMove hm).trans (executeStep_of_illegal (s := s.takeMove) hh hp hd)

/-- Settles O8: the check of `pc` comes before the fetch. -/
theorem fetchBoundsTakesFault : Obligations.FetchBoundsTakesFault := fun s hm hh hp =>
  (step_of_nextMove hm).trans (executeStep_of_fetchBounds (s := s.takeMove) hh hp)

/-- Settles O9: Execute and Tick test `halted` first, and no host move but Reset writes the latch or `pc`. -/
theorem haltedCoreStaysHalted : Obligations.HaltedCoreStaysHalted := by
  refine fun s hh => ⟨?_, fun t hstep hm => ?_⟩
  · rintro (hm | hm)
    · exact (step_of_nextMove hm).trans (executeStep_of_halted hh)
    · exact (step_of_nextMove hm).trans (moveTick_of_halted hh)
  · obtain ⟨hhalted, hrest⟩ := perform_of_halted (s := s.takeMove) hh hstep hm
    exact ⟨hhalted.trans hh, hrest⟩

/-- Settles O13: the event reads `op`, which the fetch has written, and the latch, which the fault has. -/
theorem diagnosticsNameTheOpcode : Obligations.DiagnosticsNameTheOpcode := by
  refine fun s hm hh hp => ⟨fun nnn hd => ?_, fun hd => ?_⟩
  · have hexec : executeStep s.takeMove = .next s.takeMove.fetched :=
      (executeStep_of_decode (s := s.takeMove) hh hp hd).trans (exec_sys nnn _)
    exact (stepDiag_of_execute hm).trans (executeDiag_of_sys hexec hh hd)
  · exact (stepDiag_of_execute hm).trans
      (executeDiag_of_halted (executeStep_of_illegal (s := s.takeMove) hh hp hd) rfl)

/-- Settles O21, by induction on the number of steps: each leaves what decides the next fetch as it was. -/
theorem legacyNoOpLivelock : Obligations.LegacyNoOpLivelock := by
  intro n
  induction n with
  | zero => exact fun s hs _ => ⟨s, rfl, hs, rfl, fun _ => rfl, fun _ => rfl⟩
  | succ n ih =>
    intro s hs hagenda
    obtain ⟨t, hstep, hsame, htail⟩ := step_atSys hs hagenda
    have hordinary : ∀ m ∈ t.agenda, m.isOrdinary = true := fun m hm => hagenda m (List.mem_of_mem_tail (htail ▸ hm))
    obtain ⟨u, hrun, hu, hpc, hbytes, hregs⟩ := ih t (atSys_of_sameCore hsame hs) hordinary
    obtain ⟨-, hpc', hmem, hv⟩ := hsame
    exact ⟨u, (run_succ hstep n).trans hrun, hu, hpc.trans hpc', fun a => (hbytes a).trans (readByte_eq_of_mem hmem a),
      fun r => (hregs r).trans (getReg_eq_of_v hv r)⟩

namespace Sys2Proof.Laws.HostMoves

open Sys2Proof Sys2Proof.Machine Sys2Proof.Laws.State Sys2Proof.Laws.Ops

/-- The key levels after one was set: that key's, and the others as they were (R127). -/
theorem keyDown_setLevel (s : State) (k : BitVec 4) (down : Bool) (j : Nat) :
    (s.setKeys (if down then s.keys ||| BitVec.twoPow 16 k.toNat else s.keys &&& ~~~BitVec.twoPow 16 k.toNat)).keyDown j =
      if j = k.toNat then down else s.keyDown j := by
  have hk : k.toNat < 16 := k.isLt
  simp only [State.keyDown, setKeys_keys]
  by_cases hj : j = k.toNat
  · subst hj; cases down <;> simp [hk]
  · by_cases hlt : j < 16
    · cases down <;> simp [hj, hlt]
    · rw [BitVec.getLsbD_of_ge _ _ (Nat.not_lt.1 hlt), BitVec.getLsbD_of_ge _ _ (Nat.not_lt.1 hlt), if_neg hj]

/-! The reset contents (R31, R134). -/

theorem resetByte_font (j : Fin 80) : Memory.resetByte (Config.fontBase.val + j.val) = Config.fontData j := by
  have hbase := Config.fontBase.isLt
  have hj := j.isLt
  have hlow : ¬ Config.progBase ≤ Config.fontBase.val + j.val := by simp only [Config.progBase]; omega
  simp [Memory.resetByte, hlow, Config.fontBytes]

theorem resetByte_outside {a : Nat} (h : a < Config.fontBase.val ∨ Config.fontBase.val + 80 ≤ a) : Memory.resetByte a = 0 := by
  have hfont : ¬ (Config.fontBase.val ≤ a ∧ a - Config.fontBase.val < Config.fontBytes) := by
    simp only [Config.fontBytes]; omega
  simp only [Memory.resetByte, hfont, dite_false, ite_self]

theorem getReg_reset (r : RegNum) : State.reset.getReg r = 0 := Vector.getElem_replicate ..

theorem stackEntry_reset (k : Nat) : State.reset.stackEntry k = 0 := by
  by_cases h : k < 16 <;> simp [State.stackEntry, State.reset, h]

theorem cell_reset (k : Nat) : State.reset.cell k = false := BitVec.getLsbD_zero

/-! The load of a program. -/

/-- The load that the host may do: before the start, and no longer than the memory above 0x200 (R129, R136). -/
theorem moveLoadProgram_of_fits {s : State} {bytes : List Byte} (hs : s.started = false) (hlen : bytes.length ≤ 3584) :
    moveLoadProgram bytes s = .next (s.writeBytes 0x200 bytes) := by
  simp [moveLoadProgram, hs, Nat.not_lt.2 hlen]

theorem moveLoadProgram_of_started {s : State} {bytes : List Byte} (hs : s.started = true) :
    moveLoadProgram bytes s = .refused .loadAfterStart := by
  simp [moveLoadProgram, hs]

theorem moveLoadProgram_of_tooLarge {s : State} {bytes : List Byte} (hs : s.started = false) (hlen : 3584 < bytes.length) :
    moveLoadProgram bytes s = .refused .romTooLarge := by
  simp [moveLoadProgram, hs, hlen]

/-- Each byte written is read back at its place. -/
theorem readByte_of_getElem? (s : State) (a : Nat) {bytes : List Byte} {j : Nat} {b : Byte} (h : bytes[j]? = some b) :
    (s.writeBytes a bytes).readByte (a + j) = b := by
  rw [readByte_writeBytes, if_pos (Nat.le_add_right a j), Nat.add_sub_cancel_left, h, Option.getD_some]

end Sys2Proof.Laws.HostMoves

open Sys2Proof.Laws.HostMoves

/-- Settles O54: a write of the keys, and a write of `render`, after the move is taken off the schedule. -/
theorem keyAndRenderMoves : Obligations.KeyAndRenderMoves := by
  refine fun k down s => ⟨fun hm => ?_, fun hm => ?_⟩
  · have hkeys := keyDown_setLevel s.takeMove k down
    refine ⟨_, step_of_nextMove hm, (hkeys k.toNat).trans (if_pos rfl), fun j hj => (hkeys j).trans (if_neg hj), ?_⟩
    exact frame_seq (Sys2Proof.Laws.Frame.setAgenda s _) (Sys2Proof.Laws.Frame.setKeys _ _) (fun _ => Or.inr) fun _ => Or.inl
  · exact ⟨_, step_of_nextMove hm, rfl, frame_seq (Sys2Proof.Laws.Frame.setAgenda s _) (Sys2Proof.Laws.Frame.setRender _ _)
      (fun _ => Or.inr) fun _ => Or.inl⟩

/-- Settles O55: the three branches of the load. -/
theorem loadProgramPlacesBytes : Obligations.LoadProgramPlacesBytes := by
  refine fun bytes s hm => ⟨fun hs hlen => ?_, fun hs => ?_, fun hs hlen => ?_⟩
  · exact ⟨_, (step_of_nextMove hm).trans (moveLoadProgram_of_fits (s := s.takeMove) hs hlen),
      fun _ _ hb => readByte_of_getElem? _ _ hb,
      frame_seq (Sys2Proof.Laws.Frame.setAgenda s _) (Sys2Proof.Laws.Frame.writeBytes _ _ bytes) (fun _ => Or.inl) fun _ => Or.inr⟩
  · exact (step_of_nextMove hm).trans (moveLoadProgram_of_started hs)
  · exact (step_of_nextMove hm).trans (moveLoadProgram_of_tooLarge hs hlen)

/-- Settles O57: memory lists nothing, so it reads as its reset contents; the rest is written out in the state. -/
theorem resetStateValues : Obligations.ResetStateValues :=
  ⟨rfl, getReg_reset, rfl, stackEntry_reset, rfl, resetByte_font, fun _ => resetByte_outside, cell_reset,
    rfl, rfl, rfl, rfl, rfl, rfl, rfl⟩

/-- Settles O56: the reset state, with the keys, the schedule and the draws of the state it is applied to. -/
theorem resetMoveEstablishesResetState : Obligations.ResetMoveEstablishesResetState := by
  intro s hm
  refine ⟨_, step_of_nextMove hm, rfl, getReg_reset, rfl, stackEntry_reset, rfl, resetByte_font, fun _ => resetByte_outside,
    cell_reset, rfl, rfl, rfl, rfl, rfl, rfl, rfl, rfl, rfl, fun p hp => ?_⟩
  by_cases hkeys : p = .keys
  · subst hkeys; rfl
  · have hdraws : p = .draws := not_not.1 fun h => hp ⟨hkeys, h⟩
    subst hdraws; rfl

end
